-- ==== Sys2Proof/Word.lean ====
section
/-! DEFINITION. The two word types of the command port and the buffers (30_encoding.md R60, 10_state.md R17-R21). -/

namespace Sys2Proof

/-- One byte of IBUF, PBUF or OBUF, or an 8-bit register or operand. -/
abbrev Byte := BitVec 8

/-- One command word (30_encoding.md R60): 64 bits, written by the host in one access. -/
abbrev Word64 := BitVec 64

end Sys2Proof
end

