-- ==== Sys2Proof/Syntax.lean ====
section
/-! DEFINITION. The 20 commands of the opcode map (30_encoding.md R68), with their operands as R62-R66 give them. -/

namespace Sys2Proof

/-- A FieldSpec as a format-F command carries it (30_encoding.md R64, 43_bitfield.md R140): any three bytes, legal or not. -/
structure FieldSpec where
  /-- BI, the 1-based position of the field's first byte. -/
  byteIndex : Byte
  /-- LO, the 1-based source bit position of the field's least significant bit. -/
  bitLow : Byte
  /-- HI, the 1-based source bit position of the field's most significant bit. -/
  bitHigh : Byte
  deriving DecidableEq, Repr

/-- One command (30_encoding.md R68), one constructor per row of the opcode table. -/
inductive Instr where
  /-- 0x00, R100. -/
  | nop
  /-- 0x01, R101. -/
  | srst
  /-- 0x02, R102. -/
  | errclr
  /-- 0x03, R103. -/
  | setaddr (imm24 : BitVec 24)
  /-- 0x04, R104. -/
  | ibclr
  /-- 0x05, R105. -/
  | ibput (imm8 : Byte)
  /-- 0x06, R106. -/
  | pbclr
  /-- 0x07, R107. -/
  | pbput (imm8 : Byte)
  /-- 0x10, R125. -/
  | crcinit
  /-- 0x11, R126. -/
  | crcbyte (imm8 : Byte)
  /-- 0x12, R127. -/
  | crcib (off len : BitVec 16)
  /-- 0x13, R128. -/
  | crcrd
  /-- 0x20, R145. -/
  | setchunk (off len : BitVec 16)
  /-- 0x21, R150. -/
  | unpack (spec : FieldSpec)
  /-- 0x22, R154. -/
  | pkclr
  /-- 0x23, R155. -/
  | pack (spec : FieldSpec) (v : BitVec 32)
  /-- 0x24, R160. -/
  | pkfin
  /-- 0x30, R180. -/
  | frame (imm8 : Byte)
  /-- 0x31, R186. -/
  | unframe
  /-- 0x32, R192. -/
  | query (imm8 : Byte)
  deriving DecidableEq, Repr

end Sys2Proof
end

