-- ==== Sys2Proof/WellFormed.lean ====
section
/-! DEFINITION. Which terms of Instr some command word stands for (30_encoding.md R69, R70): every one, but a QUERY of a
ROM entry above 2. An illegal FieldSpec is well formed: R64 wants it encodable, and UNPACK and PACK report it. -/

namespace Sys2Proof

/-- The term is a command that some word decodes to. -/
def WellFormed : Instr → Bool
  | .nop => true
  | .srst => true
  | .errclr => true
  | .setaddr _ => true
  | .ibclr => true
  | .ibput _ => true
  | .pbclr => true
  | .pbput _ => true
  | .crcinit => true
  | .crcbyte _ => true
  | .crcib _ _ => true
  | .crcrd => true
  | .setchunk _ _ => true
  | .unpack _ => true
  | .pkclr => true
  | .pack _ _ => true
  | .pkfin => true
  | .frame _ => true
  | .unframe => true
  | .query k => decide (k.toNat ≤ 2)

end Sys2Proof
end

