-- ==== Sys2Proof/Decode.lean ====
section
/-! DEFINITION. Decoding a command word in the order of 30_encoding.md R69, and the encoder from the format tables
R62-R66. Decoding is total: every 64-bit word is a command or is illegal for a named reason (R70). -/

namespace Sys2Proof

/-- The five formats of 30_encoding.md R62-R66. -/
inductive Format where
  | n | b | f | a | r
  deriving DecidableEq, Repr

/-- Why a word raises IllegalCommand (30_encoding.md R70). -/
inductive Illegal where
  /-- The opcode is not in the table of R68. -/
  | unassignedOpcode
  /-- A reserved bit of the format is one. -/
  | reservedBits
  /-- UNPACK with a nonzero V field. -/
  | unpackValue
  /-- QUERY with an entry number of 3 or more. -/
  | queryEntry
  deriving DecidableEq, Repr

/-- What a word decodes to. -/
inductive Decoded where
  | instr (i : Instr)
  | illegal (why : Illegal)
  deriving DecidableEq, Repr

/-- reservedMask of 30_encoding.md R69, format A as 90_conflicts.md C8 corrects it. -/
def reservedMask : Format → Word64
  | .n => 0x00FFFFFFFFFFFFFF
  | .b => 0x00FFFFFFFFFFFF00
  | .a => 0x00FFFFFFFF000000
  | .r => 0x00FFFFFF00000000
  | .f => 0

/-- OP, bits 63:56 (R61). -/
def opField (w : Word64) : Byte := w.extractLsb' 56 8

/-- IMM8, bits 7:0 (R63). -/
def imm8Field (w : Word64) : Byte := w.extractLsb' 0 8

/-- IMM24, bits 23:0 (R65). -/
def imm24Field (w : Word64) : BitVec 24 := w.extractLsb' 0 24

/-- OFF, bits 31:16 (R66). -/
def offField (w : Word64) : BitVec 16 := w.extractLsb' 16 16

/-- LEN, bits 15:0 (R66). -/
def lenField (w : Word64) : BitVec 16 := w.extractLsb' 0 16

/-- BI, LO and HI, bits 55:48, 47:40 and 39:32 (R64). -/
def specField (w : Word64) : FieldSpec :=
  { byteIndex := w.extractLsb' 48 8, bitLow := w.extractLsb' 40 8, bitHigh := w.extractLsb' 32 8 }

/-- V, bits 31:0 (R64). -/
def valueField (w : Word64) : BitVec 32 := w.extractLsb' 0 32

/-- The opcode map of R68: the format an opcode selects and the command it names, its operands taken from w (R67). -/
def opcodeRow (op : Byte) (w : Word64) : Option (Format × Instr) :=
  match op with
  | 0x00 => some (.n, .nop)
  | 0x01 => some (.n, .srst)
  | 0x02 => some (.n, .errclr)
  | 0x03 => some (.a, .setaddr (imm24Field w))
  | 0x04 => some (.n, .ibclr)
  | 0x05 => some (.b, .ibput (imm8Field w))
  | 0x06 => some (.n, .pbclr)
  | 0x07 => some (.b, .pbput (imm8Field w))
  | 0x10 => some (.n, .crcinit)
  | 0x11 => some (.b, .crcbyte (imm8Field w))
  | 0x12 => some (.r, .crcib (offField w) (lenField w))
  | 0x13 => some (.n, .crcrd)
  | 0x20 => some (.r, .setchunk (offField w) (lenField w))
  | 0x21 => some (.f, .unpack (specField w))
  | 0x22 => some (.n, .pkclr)
  | 0x23 => some (.f, .pack (specField w) (valueField w))
  | 0x24 => some (.n, .pkfin)
  | 0x30 => some (.b, .frame (imm8Field w))
  | 0x31 => some (.n, .unframe)
  | 0x32 => some (.b, .query (imm8Field w))
  | _ => none

/-- Decoding in the order of 30_encoding.md R69: the first check that fails names the reason. -/
def decode (w : Word64) : Decoded :=
  match opcodeRow (opField w) w with
  | none => .illegal .unassignedOpcode
  | some (format, i) =>
    if w &&& reservedMask format ≠ 0 then .illegal .reservedBits
    else if opField w = 0x21 ∧ valueField w ≠ 0 then .illegal .unpackValue
    else if opField w = 0x32 ∧ 2 < (imm8Field w).toNat then .illegal .queryEntry
    else .instr i

/-- A field's value in the bits of a word from lo upward. A word is the sum of its fields at their places. -/
def place {n : Nat} (lo : Nat) (v : BitVec n) : Word64 := v.setWidth 64 <<< lo

/-- A format-N word (R62). -/
def encodeN (op : Byte) : Word64 := place 56 op

/-- A format-B word (R63). -/
def encodeB (op imm8 : Byte) : Word64 := place 56 op + place 0 imm8

/-- A format-F word (R64). -/
def encodeF (op : Byte) (spec : FieldSpec) (v : BitVec 32) : Word64 :=
  place 56 op + place 48 spec.byteIndex + place 40 spec.bitLow + place 32 spec.bitHigh + place 0 v

/-- A format-A word (R65). -/
def encodeA (op : Byte) (imm24 : BitVec 24) : Word64 := place 56 op + place 0 imm24

/-- A format-R word (R66). -/
def encodeR (op : Byte) (off len : BitVec 16) : Word64 := place 56 op + place 16 off + place 0 len

/-- The word of a command (R62-R68). -/
def encode : Instr → Word64
  | .nop => encodeN 0x00
  | .srst => encodeN 0x01
  | .errclr => encodeN 0x02
  | .setaddr imm24 => encodeA 0x03 imm24
  | .ibclr => encodeN 0x04
  | .ibput imm8 => encodeB 0x05 imm8
  | .pbclr => encodeN 0x06
  | .pbput imm8 => encodeB 0x07 imm8
  | .crcinit => encodeN 0x10
  | .crcbyte imm8 => encodeB 0x11 imm8
  | .crcib off len => encodeR 0x12 off len
  | .crcrd => encodeN 0x13
  | .setchunk off len => encodeR 0x20 off len
  | .unpack spec => encodeF 0x21 spec 0
  | .pkclr => encodeN 0x22
  | .pack spec v => encodeF 0x23 spec v
  | .pkfin => encodeN 0x24
  | .frame imm8 => encodeB 0x30 imm8
  | .unframe => encodeN 0x31
  | .query k => encodeB 0x32 k

/-- The command word whose low nbits bits are those of w and whose other bits are 0, numbered as the opcode table numbers
them (bit 0 the least significant). -/
def tableWord (nbits w : Nat) : Word64 := BitVec.ofNat 64 (w % 2 ^ nbits)

/-- What the decoder reads from a word numbered as the opcode table numbers it. -/
def decodeTableWord (nbits w : Nat) : Option Instr :=
  match decode (tableWord nbits w) with
  | .instr i => some i
  | .illegal _ => none

end Sys2Proof
end

