-- ==== Sys2Proof/Config.lean ====
section
/-! DEFINITION. The block's implementation parameters (00_scope.md R3, 93_implementation_defined.md I8-I10).
DESIGN CHOICE (log entry 1, safe): the model takes them as plain data, the field State.cfg, which no step changes. -/

namespace Sys2Proof

/-- The four parameters of 00_scope.md R3; ACC_MAX_BITS and OBUF_SIZE are computed from them. -/
structure Config where
  /-- IBUF_SIZE, the input buffer's capacity in bytes. -/
  ibufSize : Nat
  /-- PBUF_SIZE, the payload buffer's capacity in bytes. -/
  pbufSize : Nat
  /-- RESET_ADDR, the reset value of ADDR. -/
  resetAddr : BitVec 24
  /-- AC_QUERY_LITERAL, which form query ROM entry 2 has (44_framer.md R193). -/
  acQueryLiteral : Bool
  deriving DecidableEq, Repr

/-- ACC_MAX_BITS (R3): fixed at 8 * PBUF_SIZE. -/
def Config.accMaxBits (c : Config) : Nat := 8 * c.pbufSize

/-- OBUF_SIZE (R3): fixed at PBUF_SIZE + 10. -/
def Config.obufSize (c : Config) : Nat := c.pbufSize + 10

/-- The legal ranges of R3: IBUF_SIZE 8 to 65535, PBUF_SIZE 1 to 8191; the other two take any value. -/
abbrev Config.Legal (c : Config) : Prop :=
  (8 ≤ c.ibufSize ∧ c.ibufSize ≤ 65535) ∧ (1 ≤ c.pbufSize ∧ c.pbufSize ≤ 8191)

/-- The defaults of R3. -/
def Config.default : Config :=
  { ibufSize := 512, pbufSize := 256, resetAddr := 0x80B001, acQueryLiteral := false }

end Sys2Proof
end

