-- ==== Sys2Proof/Machine/State.lean ====
section
/-! DEFINITION. The block's state (10_state.md R11, R17-R21), its value after reset (70_reset_and_hazards.md R240), and the
reasons a step can stop. -/

namespace Sys2Proof.Machine

/-- Everything the spec gives the block. A buffer is the list of its valid elements, first element first, and its length
register is the length of that list (log entry 3): elements at and above the length hold no value (R17, R18, R27). -/
structure State where
  /-- The parameters of 00_scope.md R3; no command changes them (R23, log entry 1). -/
  cfg : Config
  /-- STATUS, port 0x00: the error code of the most recent command. -/
  status : Byte
  /-- FAULT, port 0x01: the first nonzero error code since reset or ERRCLR. -/
  fault : Byte
  /-- CRC, port 0x02. -/
  crc : BitVec 16
  /-- RES, port 0x03. -/
  res : BitVec 64
  /-- ADDR, port 0x04. -/
  addr : BitVec 24
  /-- CHUNK_BASE, port 0x09. -/
  chunkBase : BitVec 16
  /-- CHUNK_LEN, port 0x0A. -/
  chunkLen : BitVec 16
  /-- RX_ADDR, port 0x0B. -/
  rxAddr : BitVec 16
  /-- RX_ID, port 0x0C. -/
  rxId : Byte
  /-- RX_TYPE, port 0x0D. -/
  rxType : Byte
  /-- RX_LEN, port 0x0E. -/
  rxLen : BitVec 16
  /-- RX_BODY_LEN, port 0x0F. -/
  rxBodyLen : BitVec 16
  /-- ACC, the bit accumulator (R17), ACC[0] first; ACC_LEN, port 0x05, is its length. -/
  acc : List Bool
  /-- IBUF (R18); IBUF_LEN, port 0x06, is its length. -/
  ibuf : List Byte
  /-- PBUF (R20); PBUF_LEN, port 0x07, is its length. -/
  pbuf : List Byte
  /-- OBUF (R21); OBUF_LEN, port 0x08, is its length. -/
  obuf : List Byte
  /-- The words the host has issued and the block has not executed yet, oldest first (R10, R24; log entry 2). -/
  pending : List Word64
  deriving DecidableEq, Repr

/-- Reasons for a fault: none. The spec's errors are result codes after which the next command runs (60_exceptions.md
R210), and nothing in the block is stuck (93_implementation_defined.md, section 2). -/
inductive Fault where
  deriving DecidableEq, Repr

/-- Reasons for a refusal. -/
inductive Refusal where
  /-- Raised by exec's arm of an instruction that has no meaning: no arm of this model. Safe. -/
  | notModelled (mnemonic : String)
  /-- Raised by step when the host has issued no word: the block takes one step per command (93_implementation_defined.md
  I26) and has nothing to execute. Safe: nothing can be proved of a step that the block does not take. -/
  | noCommand
  deriving DecidableEq, Repr

/-- The block with parameters c after power-on (R11, R240), with no word issued. -/
def State.resetWith (c : Config) : State :=
  { cfg := c
    status := 0x00
    fault := 0x00
    crc := 0xFFFF
    res := 0
    addr := c.resetAddr
    chunkBase := 0
    chunkLen := 0
    rxAddr := 0
    rxId := 0
    rxType := 0
    rxLen := 0
    rxBodyLen := 0
    acc := []
    ibuf := []
    pbuf := []
    obuf := []
    pending := [] }

/-- The block with the default parameters of R3 after power-on. -/
def State.reset : State := State.resetWith Config.default

end Sys2Proof.Machine
end

