-- ==== Sys2Proof/Machine/Flags.lean ====
section
/-! DEFINITION. The block's condition codes: the error codes of 60_exceptions.md R211 and the STATUS and FAULT values a
command leaves (10_state.md R12, R13). No other flag exists (R12). -/

namespace Sys2Proof.Machine

/-- The error kinds of 60_exceptions.md R211. -/
inductive ErrorKind where
  | malformedFieldSpec
  | byteOutOfRange
  | fieldValueOverflow
  /-- The host's own code: no command of the block raises it (R211, 93_implementation_defined.md I3). -/
  | unknownMode
  | frameTooShort
  | illegalCommand
  | bufferOverflow
  | bufferRange
  | faultPending
  deriving DecidableEq, Repr

/-- The code column of 60_exceptions.md R211. -/
def ErrorKind.code : ErrorKind → Byte
  | .malformedFieldSpec => 0x01
  | .byteOutOfRange => 0x02
  | .fieldValueOverflow => 0x03
  | .unknownMode => 0x04
  | .frameTooShort => 0x05
  | .illegalCommand => 0x10
  | .bufferOverflow => 0x11
  | .bufferRange => 0x12
  | .faultPending => 0x13

/-- What STATUS holds after a command that completes (R12). -/
def statusCompleted : Byte := 0x00

/-- What FAULT holds after an error of code e, given what it held before: the first error stays (R13). -/
def stickyFault (before e : Byte) : Byte := if before = 0x00 then e else before

end Sys2Proof.Machine
end

