-- ==== Sys2Proof/Machine/Operands.lean ====
section
/-! DEFINITION. The operand forms: byte order (20_memory.md R40), IBUF ranges and the chunk window (10_state.md R19), and
FieldSpecs (43_bitfield.md R140-R143, R151, R155). Operand fields are unsigned (30_encoding.md R67) and conditions are on
naturals, which never wrap (00_scope.md R5). -/

namespace Sys2Proof

/-- A 16-bit value as 2 bytes, most significant first (R40). -/
def be16 (v : BitVec 16) : List Byte := [v.extractLsb' 8 8, v.extractLsb' 0 8]

/-- A 24-bit value as 3 bytes, most significant first (R40, R16). -/
def be24 (v : BitVec 24) : List Byte := [v.extractLsb' 16 8, v.extractLsb' 8 8, v.extractLsb' 0 8]

/-- The 16-bit value of 2 bytes, the first the more significant (R40). -/
def ofBe16 (hi lo : Byte) : BitVec 16 := hi ++ lo

/-- Byte i of a byte sequence. Every use stands behind a check that i is below the length. -/
def byteAt (bytes : List Byte) (i : Nat) : Byte := bytes.getD i 0

/-- The bytes off .. off+len-1 of a byte sequence (00_scope.md R5, s[i:j]). -/
def byteRange (bytes : List Byte) (off len : Nat) : List Byte := (bytes.drop off).take len

/-- The unsigned value of a bit string, first bit most significant (R41). -/
def natOfBits (bits : List Bool) : Nat := bits.foldl (fun v b => 2 * v + b.toNat) 0

/-- The low n bits of v, most significant first: bit k is V[n-1-k] (43_bitfield.md R155). -/
def lowBits (n : Nat) (v : BitVec 32) : List Bool := (List.range n).map fun k => v.getLsbD (n - 1 - k)

/-- valid(b, lo, hi) of 43_bitfield.md R140. -/
def FieldSpec.valid (f : FieldSpec) : Bool :=
  decide (1 ≤ f.byteIndex.toNat ∧ 1 ≤ f.bitLow.toNat ∧ f.bitLow.toNat ≤ f.bitHigh.toNat ∧ f.bitHigh.toNat ≤ 16)

/-- w, the width of the field unit (R141). -/
def FieldSpec.width (f : FieldSpec) : Nat := if 8 < f.bitHigh.toNat then 16 else 8

/-- n = hi - lo + 1, the width of the field (R143). -/
def FieldSpec.bits (f : FieldSpec) : Nat := f.bitHigh.toNat - f.bitLow.toNat + 1

/-- P, the accumulator position of the field's first bit (R143). -/
def FieldSpec.position (f : FieldSpec) : Nat := (f.byteIndex.toNat - 1) * 8 + (f.width - f.bitHigh.toNat)

/-- need, the chunk bytes the field unit needs (R151). -/
def FieldSpec.need (f : FieldSpec) : Nat := if f.width = 16 then f.byteIndex.toNat + 1 else f.byteIndex.toNat

/-- W, the field unit's value in a chunk (R141, R151): one byte, or two with the first the more significant. -/
def FieldSpec.unit (f : FieldSpec) (chunk : List Byte) : Nat :=
  if f.width = 16 then
    (ofBe16 (byteAt chunk (f.byteIndex.toNat - 1)) (byteAt chunk f.byteIndex.toNat)).toNat
  else (byteAt chunk (f.byteIndex.toNat - 1)).toNat

/-- W[HI-1 : LO-1], the field's value in a chunk (R143, R151). -/
def FieldSpec.value (f : FieldSpec) (chunk : List Byte) : Nat :=
  f.unit chunk / 2 ^ (f.bitLow.toNat - 1) % 2 ^ f.bits

end Sys2Proof
end

