-- ==== Sys2Proof/Machine/Ops.lean ====
section
/-! DEFINITION. The operations the meanings share: completing and raising an error (60_exceptions.md R210), taking the
host's next word, the buffers, the accumulator, and the length registers. -/

namespace Sys2Proof.Machine

/-- What a command answers. -/
abbrev Result := Host.Outcome State Fault Refusal

/-- STATUS <- 0 (10_state.md R12). -/
def complete (s : State) : State := { s with status := statusCompleted }

/-- raise E (60_exceptions.md R210): STATUS and FAULT only. It is the block's whole error entry: nothing is saved, no mode
changes, control goes nowhere (R216), so there is no return to model. -/
def raise (e : ErrorKind) (s : State) : State :=
  { s with status := e.code, fault := stickyFault s.fault e.code }

/-- A command that completes in state s. -/
def finish (s : State) : Result := .next (complete s)

/-- A command that ends with error e in state s: the next command executes normally (R210). -/
def fail (e : ErrorKind) (s : State) : Result := .next (raise e s)

def setPending (words : List Word64) (s : State) : State := { s with pending := words }

/-- The host issues a word: it executes after every word issued before it (20_memory.md R50). -/
def issue (w : Word64) (s : State) : State := setPending (s.pending ++ [w]) s

/-- The block takes the oldest word the host has issued (10_state.md R10, R24). -/
def fetch (s : State) : Option (Word64 × State) :=
  match s.pending with
  | [] => none
  | w :: rest => some (w, setPending rest s)

/-- A word that decodes to no command raises IllegalCommand, whatever the reason (30_encoding.md R69, R70). -/
def execIllegal (_why : Illegal) (s : State) : Result := fail .illegalCommand s

/-- ACC_LEN (10_state.md R11, R17). -/
def State.accLen (s : State) : BitVec 16 := BitVec.ofNat 16 s.acc.length

/-- IBUF_LEN (R11, R18). -/
def State.ibufLen (s : State) : BitVec 16 := BitVec.ofNat 16 s.ibuf.length

/-- PBUF_LEN (R11, R20). -/
def State.pbufLen (s : State) : BitVec 16 := BitVec.ofNat 16 s.pbuf.length

/-- OBUF_LEN (R11, R21). -/
def State.obufLen (s : State) : BitVec 16 := BitVec.ofNat 16 s.obuf.length

def setFault (e : Byte) (s : State) : State := { s with fault := e }

def setCrc (c : BitVec 16) (s : State) : State := { s with crc := c }

def setRes (v : BitVec 64) (s : State) : State := { s with res := v }

def setAddr (a : BitVec 24) (s : State) : State := { s with addr := a }

def setIbuf (bytes : List Byte) (s : State) : State := { s with ibuf := bytes }

def setPbuf (bytes : List Byte) (s : State) : State := { s with pbuf := bytes }

def setObuf (bytes : List Byte) (s : State) : State := { s with obuf := bytes }

def setAcc (bits : List Bool) (s : State) : State := { s with acc := bits }

/-- The chunk window (10_state.md R19). -/
def setChunk (base len : BitVec 16) (s : State) : State := { s with chunkBase := base, chunkLen := len }

/-- The RX registers (10_state.md R22). -/
def setRx (address : BitVec 16) (id type : Byte) (length bodyLen : BitVec 16) (s : State) : State :=
  { s with rxAddr := address, rxId := id, rxType := type, rxLen := length, rxBodyLen := bodyLen }

/-- BufAppend(buf, v) of 00_scope.md R7: the element goes to the end and the length grows by 1. -/
def bufAppend {α : Type} (buf : List α) (v : α) : List α := buf ++ [v]

/-- The range off .. off+len-1 lies in the valid bytes of IBUF; the sum does not wrap (42_checksum.md R127, R145). -/
def ibufCovers (off len : BitVec 16) (s : State) : Bool := decide (off.toNat + len.toNat ≤ s.ibuf.length)

/-- The chunk: the IBUF bytes CHUNK_BASE .. CHUNK_BASE+CHUNK_LEN-1 (10_state.md R19). -/
def State.chunk (s : State) : List Byte := byteRange s.ibuf s.chunkBase.toNat s.chunkLen.toNat

/-- ACC after the field's bits v are packed (43_bitfield.md R155, R156): zeros up to P at the tail, then the bits. -/
def packedAcc (f : FieldSpec) (v : BitVec 32) (acc : List Bool) : List Bool :=
  acc ++ List.replicate (f.position - acc.length) false ++ lowBits f.bits v

/-- The first byte of a bit string, a(0) most significant, bits past the end read as 0 (43_bitfield.md R160). -/
def firstByte (bits : List Bool) : Byte :=
  BitVec.ofNat 8 (natOfBits ((List.range 8).map fun j => bits.getD j false))

/-- The payload bytes of the accumulator (R160): byte k is made of a(8k) .. a(8k+7). -/
def packedBytes (acc : List Bool) : List Byte :=
  (List.range ((acc.length + 7) / 8)).map fun k => firstByte (acc.drop (8 * k))

/-- Every buffer fits its capacity (10_state.md R17-R21, R28). OBUF may also hold a 12-byte ROM frame, which is over
OBUF_SIZE when PBUF_SIZE = 1 (log entry 4). This is the form of the block's memory that every operation keeps. -/
abbrev Memory.wf (s : State) : Prop :=
  s.ibuf.length ≤ s.cfg.ibufSize ∧ s.pbuf.length ≤ s.cfg.pbufSize ∧
    s.obuf.length ≤ max s.cfg.obufSize 12 ∧ s.acc.length ≤ s.cfg.accMaxBits

end Sys2Proof.Machine
end

