-- ==== Sys2Proof/Machine/Bitfield.lean ====
section
/-! DEFINITION. The bit-field pack/unpack datapath (43_bitfield.md R140-R162). -/

namespace Sys2Proof.Machine

/-- SETCHUNK (R145). -/
def execSetchunk (off len : BitVec 16) (s : State) : Result :=
  if ibufCovers off len s then finish (setChunk off len s) else fail .bufferRange s

/-- UNPACK (R150-R152), its errors in R152's order. -/
def execUnpack (f : FieldSpec) (s : State) : Result :=
  if f.valid = false then fail .malformedFieldSpec s
  else if ibufCovers s.chunkBase s.chunkLen s = false then fail .bufferRange s
  else if s.chunkLen.toNat < f.need then fail .byteOutOfRange s
  else finish (setRes (BitVec.ofNat 64 (f.value s.chunk)) s)

/-- PKCLR (R154). -/
def execPkclr (s : State) : Result := finish (setAcc [] s)

/-- PACK (R155-R158), its errors in R158's order. -/
def execPack (f : FieldSpec) (v : BitVec 32) (s : State) : Result :=
  if f.valid = false then fail .malformedFieldSpec s
  else if 2 ^ f.bits ≤ v.toNat then fail .fieldValueOverflow s
  else if s.cfg.accMaxBits < max s.acc.length f.position + f.bits then fail .bufferOverflow s
  else finish (setAcc (packedAcc f v s.acc) s)

/-- PKFIN (R160). -/
def execPkfin (s : State) : Result := finish (setPbuf (packedBytes s.acc) s)

end Sys2Proof.Machine
end

