-- ==== Sys2Proof/Machine/Control.lean ====
section
/-! DEFINITION. The control and buffer-loading commands (41_control.md R100-R107). -/

namespace Sys2Proof.Machine

/-- NOP (R100). -/
def execNop (s : State) : Result := finish s

/-- SRST (R101): the power-on reset of R240. The parameters and the words the host has issued are not the block's registers
and stay. -/
def execSrst (s : State) : Result := finish (setPending s.pending (State.resetWith s.cfg))

/-- ERRCLR (R102). -/
def execErrclr (s : State) : Result := finish (setFault 0x00 s)

/-- SETADDR (R103). -/
def execSetaddr (imm24 : BitVec 24) (s : State) : Result := finish (setAddr imm24 s)

/-- IBCLR (R104). -/
def execIbclr (s : State) : Result := finish (setIbuf [] s)

/-- IBPUT (R105). -/
def execIbput (imm8 : Byte) (s : State) : Result :=
  if s.ibuf.length = s.cfg.ibufSize then fail .bufferOverflow s
  else finish (setIbuf (bufAppend s.ibuf imm8) s)

/-- PBCLR (R106). -/
def execPbclr (s : State) : Result := finish (setPbuf [] s)

/-- PBPUT (R107). -/
def execPbput (imm8 : Byte) (s : State) : Result :=
  if s.pbuf.length = s.cfg.pbufSize then fail .bufferOverflow s
  else finish (setPbuf (bufAppend s.pbuf imm8) s)

end Sys2Proof.Machine
end

