-- ==== Sys2Proof/Machine/Checksum.lean ====
section
/-! DEFINITION. The checksum engine (42_checksum.md R120-R128). -/

namespace Sys2Proof

/-- One of the 8 steps of crc_update (R121). -/
def crcShift (c : BitVec 16) : BitVec 16 := if c.getLsbD 0 then (c >>> 1) ^^^ 0xA001 else c >>> 1

/-- crc_update(c, b) (R121). -/
def crcUpdate (c : BitVec 16) (b : Byte) : BitVec 16 := Nat.repeat crcShift 8 (c ^^^ b.setWidth 16)

/-- crc_update over a byte sequence in order (R122, R127). -/
def crcBytes (c : BitVec 16) (bytes : List Byte) : BitVec 16 := bytes.foldl crcUpdate c

/-- The initial register value (R120). -/
def crcInit : BitVec 16 := 0xFFFF

/-- The final XOR (R120). -/
def crcFinal (c : BitVec 16) : BitVec 16 := c ^^^ 0x0000

/-- checksum(s) (R122). -/
def checksum (bytes : List Byte) : BitVec 16 := crcFinal (crcBytes crcInit bytes)

namespace Machine

/-- CRCINIT (R125). -/
def execCrcinit (s : State) : Result := finish (setCrc crcInit s)

/-- CRCBYTE (R126). -/
def execCrcbyte (imm8 : Byte) (s : State) : Result := finish (setCrc (crcUpdate s.crc imm8) s)

/-- CRCIB (R127). -/
def execCrcib (off len : BitVec 16) (s : State) : Result :=
  if ibufCovers off len s then finish (setCrc (crcBytes s.crc (byteRange s.ibuf off.toNat len.toNat)) s)
  else fail .bufferRange s

/-- CRCRD (R128). -/
def execCrcrd (s : State) : Result := finish (setRes ((crcFinal s.crc).setWidth 64) s)

end Machine

end Sys2Proof
end

