-- ==== Sys2Proof/Machine/Framer.lean ====
section
/-! DEFINITION. The message framer (44_framer.md R180-R195). -/

namespace Sys2Proof

/-- The preamble (10_state.md R23). -/
def preamble : List Byte := [0x55, 0x55]

/-- The bytes a frame's checksum covers (44_framer.md R183): address, type, length and payload. -/
def frameBody (addr : BitVec 24) (type : Byte) (payload : List Byte) : List Byte :=
  be24 addr ++ [type] ++ be16 (BitVec.ofNat 16 payload.length) ++ payload

/-- The outbound frame (R182, R184). -/
def frameBytes (addr : BitVec 24) (type : Byte) (payload : List Byte) : List Byte :=
  preamble ++ frameBody addr type payload ++ be16 (checksum (frameBody addr type payload))

/-- The query ROM (R193); entry 2 has its longer form when AC_QUERY_LITERAL is true. -/
def queryRom (acQueryLiteral : Bool) (k : Byte) : Option (List Byte) :=
  match k with
  | 0 => some [0x55, 0x55, 0x80, 0xb0, 0x01, 0x2b, 0x00, 0x00, 0xf5, 0x2f]
  | 1 => some [0x55, 0x55, 0x90, 0xb0, 0x01, 0x1f, 0x00, 0x02, 0xff, 0x12, 0x82, 0x0c]
  | 2 =>
    some ([0x55, 0x55, 0x80, 0xb0, 0x01, 0x2d, 0x00, 0x00, 0xf4, 0xcf]
      ++ if acQueryLiteral then [0xe3, 0x52] else [])
  | _ => none

namespace Machine

/-- The inbound header size (10_state.md R23). -/
def headerSize : Nat := 8

/-- FRAME (R180-R184). -/
def execFrame (imm8 : Byte) (s : State) : Result :=
  if s.fault ≠ 0x00 then fail .faultPending s
  else finish (setCrc (checksum (frameBody s.addr imm8 s.pbuf)) (setObuf (frameBytes s.addr imm8 s.pbuf) s))

/-- UNFRAME (R186-R189). -/
def execUnframe (s : State) : Result :=
  if s.ibuf.length < headerSize then fail .frameTooShort s
  else
    finish (setRx (ofBe16 (byteAt s.ibuf 2) (byteAt s.ibuf 3)) (byteAt s.ibuf 4) (byteAt s.ibuf 5)
      (ofBe16 (byteAt s.ibuf 6) (byteAt s.ibuf 7)) (BitVec.ofNat 16 (s.ibuf.length - headerSize)) s)

/-- QUERY (R192, R193): an entry above 2 is IllegalCommand, as decoding answers for its word (30_encoding.md R69).
DEDUCED (log entry 4, unsafe with PBUF_SIZE = 1): the copy always completes. DEDUCED (log entry 7, safe): the term query k
with k above 2, to which no word decodes. -/
def execQuery (k : Byte) (s : State) : Result :=
  match queryRom s.cfg.acQueryLiteral k with
  | some bytes => finish (setObuf bytes s)
  | none => fail .illegalCommand s

end Machine

end Sys2Proof
end

