-- ==== Sys2Proof/Machine/Dispatch.lean ====
section
/-! DEFINITION. One arm per command, each one direct call of its meaning. -/

namespace Sys2Proof.Machine

def exec (i : Instr) (s : State) : Host.Outcome State Fault Refusal :=
  match i with
  | .nop => Sys2Proof.Machine.execNop s
  | .srst => Sys2Proof.Machine.execSrst s
  | .errclr => Sys2Proof.Machine.execErrclr s
  | .setaddr imm24 => Sys2Proof.Machine.execSetaddr imm24 s
  | .ibclr => Sys2Proof.Machine.execIbclr s
  | .ibput imm8 => Sys2Proof.Machine.execIbput imm8 s
  | .pbclr => Sys2Proof.Machine.execPbclr s
  | .pbput imm8 => Sys2Proof.Machine.execPbput imm8 s
  | .crcinit => Sys2Proof.Machine.execCrcinit s
  | .crcbyte imm8 => Sys2Proof.Machine.execCrcbyte imm8 s
  | .crcib off len => Sys2Proof.Machine.execCrcib off len s
  | .crcrd => Sys2Proof.Machine.execCrcrd s
  | .setchunk off len => Sys2Proof.Machine.execSetchunk off len s
  | .unpack spec => Sys2Proof.Machine.execUnpack spec s
  | .pkclr => Sys2Proof.Machine.execPkclr s
  | .pack spec v => Sys2Proof.Machine.execPack spec v s
  | .pkfin => Sys2Proof.Machine.execPkfin s
  | .frame imm8 => Sys2Proof.Machine.execFrame imm8 s
  | .unframe => Sys2Proof.Machine.execUnframe s
  | .query imm8 => Sys2Proof.Machine.execQuery imm8 s

end Sys2Proof.Machine
end

