-- ==== Sys2Proof/Machine/Step.lean ====
section
/-! DEFINITION. One step: the block takes the oldest word the host has issued, decodes it and executes it (10_state.md R10,
30_encoding.md R69, 20_memory.md R50). DESIGN CHOICE (log entries 2 and 8, safe): issued words wait in a list, and a step takes no time. -/

namespace Sys2Proof.Machine

/-- One step (93_implementation_defined.md I26: one step per command). -/
def step (s : State) : Host.Outcome State Fault Refusal :=
  match fetch s with
  | none => .refused .noCommand
  | some (w, s') =>
    match decode w with
    | .instr i => exec i s'
    | .illegal why => execIllegal why s'

/-- s with the instruction whose bits are w issued as the word the block takes next (log entry 2). -/
def State.withFetchWord (s : State) (nbits w : Nat) : State :=
  setPending (tableWord nbits w :: s.pending) s

end Sys2Proof.Machine
end

