-- ==== Sys2Proof/Machine/Assembler.lean ====
section
/-! DEFINITION. The assembly text (30_encoding.md R71) and the pseudo-commands (R72).
DESIGN CHOICE (log entry 5, safe): the details of the text that R71 does not give. -/

namespace Sys2Proof

/-- The pseudo-commands of 30_encoding.md R72. -/
inductive Pseudo where
  | ibload (bytes : List Byte)
  | pbload (bytes : List Byte)
  | checksum (off len : BitVec 16)
  | field (spec : FieldSpec)
  deriving DecidableEq, Repr

/-- The real commands a pseudo-command stands for (R72). -/
def Pseudo.expand : Pseudo → List Instr
  | .ibload bytes => .ibclr :: bytes.map .ibput
  | .pbload bytes => .pbclr :: bytes.map .pbput
  | .checksum off len => [.crcinit, .crcib off len, .crcrd]
  | .field spec => [.unpack spec]

namespace Asm

/-- The value of a digit below the base, upper or lower case for hex. -/
def digit (base : Nat) (c : Char) : Option Nat :=
  let v :=
    if '0' ≤ c ∧ c ≤ '9' then c.toNat - '0'.toNat
    else if 'a' ≤ c ∧ c ≤ 'f' then c.toNat - 'a'.toNat + 10
    else if 'A' ≤ c ∧ c ≤ 'F' then c.toNat - 'A'.toNat + 10
    else base
  if v < base then some v else none

/-- The number spelled by digits of a base, most significant first, after the value acc so far. -/
def digits (base acc : Nat) : List Char → Option Nat
  | [] => some acc
  | c :: cs =>
    match digit base c with
    | some d => digits base (base * acc + d) cs
    | none => none

/-- A number: decimal, or hex with the prefix 0x (R71). -/
def number : List Char → Option Nat
  | [] => none
  | '0' :: 'x' :: c :: cs => digits 16 0 (c :: cs)
  | c :: cs => digits 10 0 (c :: cs)

/-- The text without the spaces before and after it. -/
def trim (cs : List Char) : List Char :=
  ((cs.dropWhile (· = ' ')).reverse.dropWhile (· = ' ')).reverse

/-- The parts of a text between its commas. -/
def splitCommas : List Char → List (List Char)
  | [] => [[]]
  | c :: cs =>
    match splitCommas cs with
    | [] => [[c]]
    | part :: parts => if c = ',' then [] :: part :: parts else (c :: part) :: parts

/-- The numbers of a comma-separated operand list; no text is no operand. -/
def operands (cs : List Char) : Option (List Nat) :=
  if trim cs = [] then some [] else (splitCommas cs).mapM fun part => number (trim part)

/-- A number as an operand field of n bits (R67); a number that does not fit is no operand. -/
def imm (n v : Nat) : Option (BitVec n) := if v < 2 ^ n then some (BitVec.ofNat n v) else none

/-- A FieldSpec from its operands in the source's order (R71). -/
def spec (bi lo hi : Nat) : Option FieldSpec := do
  let b ← imm 8 bi
  let l ← imm 8 lo
  let h ← imm 8 hi
  pure { byteIndex := b, bitLow := l, bitHigh := h }

/-- The one command an operand value gives, when the value fits. -/
def one {α : Type} (command : α → Instr) (v : Option α) : Option (List Instr) := v.map fun x => [command x]

/-- The one command two operand values give, when both fit. -/
def two {α β : Type} (command : α → β → Instr) (v : Option α) (w : Option β) : Option (List Instr) :=
  match v, w with
  | some x, some y => [command x y]
  | _, _ => none

/-- A mnemonic with its operands: the commands of R71 and the pseudo-commands of R72, expanded. -/
def assembleOp (mnemonic : String) (ops : List Nat) : Option (List Instr) :=
  match mnemonic, ops with
  | "NOP", [] => some [.nop]
  | "SRST", [] => some [.srst]
  | "ERRCLR", [] => some [.errclr]
  | "SETADDR", [a] => one .setaddr (imm 24 a)
  | "IBCLR", [] => some [.ibclr]
  | "IBPUT", [b] => one .ibput (imm 8 b)
  | "PBCLR", [] => some [.pbclr]
  | "PBPUT", [b] => one .pbput (imm 8 b)
  | "CRCINIT", [] => some [.crcinit]
  | "CRCBYTE", [b] => one .crcbyte (imm 8 b)
  | "CRCIB", [off, len] => two .crcib (imm 16 off) (imm 16 len)
  | "CRCRD", [] => some [.crcrd]
  | "SETCHUNK", [off, len] => two .setchunk (imm 16 off) (imm 16 len)
  | "UNPACK", [bi, lo, hi] => one .unpack (spec bi lo hi)
  | "PKCLR", [] => some [.pkclr]
  | "PACK", [bi, lo, hi, v] => two .pack (spec bi lo hi) (imm 32 v)
  | "PKFIN", [] => some [.pkfin]
  | "FRAME", [b] => one .frame (imm 8 b)
  | "UNFRAME", [] => some [.unframe]
  | "QUERY", [k] => one .query (imm 8 k)
  | "IBLOAD", bytes => (bytes.mapM (imm 8)).map fun bs => (Pseudo.ibload bs).expand
  | "PBLOAD", bytes => (bytes.mapM (imm 8)).map fun bs => (Pseudo.pbload bs).expand
  | "CHECKSUM", [off, len] =>
    match imm 16 off, imm 16 len with
    | some o, some l => (Pseudo.checksum o l).expand
    | _, _ => none
  | "FIELD", [bi, lo, hi] => (spec bi lo hi).map fun f => (Pseudo.field f).expand
  | _, _ => none

/-- One line of assembly text (R71): a mnemonic, a space, and operands separated by commas. -/
def assembleChars (line : List Char) : Option (List Instr) :=
  let text := trim line
  let mnemonic := text.takeWhile (· ≠ ' ')
  match operands (text.dropWhile (· ≠ ' ')) with
  | some ops => assembleOp (String.ofList mnemonic) ops
  | none => none

/-- One line of assembly text as the words the host issues for it. -/
def assemble (line : String) : Option (List Word64) :=
  (assembleChars line.toList).map fun commands => commands.map encode

end Asm

end Sys2Proof
end

