-- ==== Sys2Proof/Machine/ReadPort.lean ====
section
/-! DEFINITION. The host read port (10_state.md R26, R27; 60_exceptions.md R223). A read is a function of the state, so it
changes none, and none stands for the refusal of R27: no value. DEDUCED (log entry 6, safe).
DESIGN CHOICE (log entry 2, safe): in the spec a command completes as it is issued, so no words ever wait at a read; in a
state where words wait, the model's read answers from the state after all of them (20_memory.md R50, item 3). -/

namespace Sys2Proof.Machine

/-- The state after n steps, or where the last of them stops. -/
def executed : Nat → State → State
  | 0, s => s
  | n + 1, s =>
    match step s with
    | .next t => executed n t
    | .fault _ => s
    | .refused _ => s

/-- The state every word the host has issued leaves: what a host read sees (20_memory.md R50, item 3). DESIGN CHOICE (log
entry 2, safe): the words that wait in pending execute before the read, in order. -/
def settled (s : State) : State := executed s.pending.length s

/-- Register n of the table of R11 in this state, zero-extended to 64 bits; no value for a number above 0x0F (R27). -/
def register (n : Nat) (s : State) : Option (BitVec 64) :=
  match n with
  | 0x00 => some (s.status.setWidth 64)
  | 0x01 => some (s.fault.setWidth 64)
  | 0x02 => some (s.crc.setWidth 64)
  | 0x03 => some s.res
  | 0x04 => some (s.addr.setWidth 64)
  | 0x05 => some (s.accLen.setWidth 64)
  | 0x06 => some (s.ibufLen.setWidth 64)
  | 0x07 => some (s.pbufLen.setWidth 64)
  | 0x08 => some (s.obufLen.setWidth 64)
  | 0x09 => some (s.chunkBase.setWidth 64)
  | 0x0A => some (s.chunkLen.setWidth 64)
  | 0x0B => some (s.rxAddr.setWidth 64)
  | 0x0C => some (s.rxId.setWidth 64)
  | 0x0D => some (s.rxType.setWidth 64)
  | 0x0E => some (s.rxLen.setWidth 64)
  | 0x0F => some (s.rxBodyLen.setWidth 64)
  | _ => none

/-- ReadReg(n): register n as every command issued before the read has left it (R26). DESIGN CHOICE (log entry 2) while words
wait in pending. -/
def readReg (n : Nat) (s : State) : Option (BitVec 64) := register n (settled s)

/-- ReadIBUF(i), after every command issued before the read, as for readReg. -/
def readIbuf (i : Nat) (s : State) : Option Byte := (settled s).ibuf[i]?

/-- ReadPBUF(i), likewise. -/
def readPbuf (i : Nat) (s : State) : Option Byte := (settled s).pbuf[i]?

/-- ReadOBUF(i), likewise. -/
def readObuf (i : Nat) (s : State) : Option Byte := (settled s).obuf[i]?

/-- ReadACC(i), likewise. -/
def readAcc (i : Nat) (s : State) : Option Bool := (settled s).acc[i]?

end Sys2Proof.Machine
end

