-- ==== Sys2Proof/Machine/Reference.lean ====
section
/-! DEFINITION. The spec's other descriptions of the same computations, for statements to compare the meanings with; no
meaning uses them. The source's string algorithms of decode and encode (43_bitfield.md R142, R151, R156, R157), of which
the spec says that they win wherever the two differ, and the CRC by its parameters (42_checksum.md R120). -/

namespace Sys2Proof.Reference

/-- A byte as a width-8 zero-padded binary string, MSB first (20_memory.md R41). -/
def byteString (b : Byte) : List Bool := (List.range 8).map fun j => b.getLsbD (7 - j)

/-- start = width - bitHigh + 1 (R142). -/
def startPos (f : FieldSpec) : Nat := f.width - f.bitHigh.toNat + 1

/-- end = width - bitLow + 1 (R142). -/
def endPos (f : FieldSpec) : Nat := f.width - f.bitLow.toNat + 1

/-- The concatenated string of the field's byte or bytes (R141). -/
def unitString (f : FieldSpec) (chunk : List Byte) : List Bool :=
  if f.width = 16 then
    byteString (byteAt chunk (f.byteIndex.toNat - 1)) ++ byteString (byteAt chunk f.byteIndex.toNat)
  else byteString (byteAt chunk (f.byteIndex.toNat - 1))

/-- decode's result: the slice [start-1, end) parsed as an unsigned binary integer (R151). -/
def decodeField (f : FieldSpec) (chunk : List Byte) : Nat :=
  natOfBits (((unitString f chunk).take (endPos f)).drop (startPos f - 1))

/-- The shortest binary spelling: 1 character for 0, else floor(log2 v) + 1 (R157). -/
def shortestBinary (v : Nat) : List Bool :=
  (List.range (Nat.log2 v + 1)).map fun k => v.testBit (Nat.log2 v - k)

/-- Left-pad with zeros to n characters. -/
def leftPad (n : Nat) (bits : List Bool) : List Bool := List.replicate (n - bits.length) false ++ bits

/-- encode's steps 2 to 4, the padding at the tail as 90_conflicts.md C3 reads it; none is FieldValueOverflow (R156, R157). -/
def encodeField (f : FieldSpec) (v : Nat) (acc : List Bool) : Option (List Bool) :=
  let target := (f.byteIndex.toNat - 1) * 8 + (startPos f - 1)
  let chars := endPos f - startPos f + 1
  if chars < (shortestBinary v).length then none
  else some (acc ++ List.replicate (target - acc.length) false ++ leftPad chars (shortestBinary v))

/-- One step of the unreflected CRC with polynomial 0x8005. -/
def shiftLeft (c : BitVec 16) : BitVec 16 := if c.getLsbD 15 then (c <<< 1) ^^^ 0x8005 else c <<< 1

/-- The unreflected register folds in one byte, bit-reversed: reflected input (R120). -/
def update (c : BitVec 16) (b : Byte) : BitVec 16 :=
  Nat.repeat shiftLeft 8 (c ^^^ (b.reverse.setWidth 16 <<< 8))

/-- The CRC with the parameters of R120: polynomial 0x8005, reflected input and output, initial 0xFFFF, final XOR 0. -/
def checksum (bytes : List Byte) : BitVec 16 := (bytes.foldl update 0xFFFF).reverse ^^^ 0x0000

end Sys2Proof.Reference
end

