-- ==== Sys2Proof/Safety.lean ====
section
/-! DEFINITION. What the statements call a sound state: the invariants of the block, each a conjunct with its rule, and
the state an error leaves. -/

namespace Sys2Proof.Machine

/-- The state 60_exceptions.md R210 gives after a command raises the error of this code in state s. -/
def afterError (code : Byte) (s : State) : State :=
  { s with status := code, fault := if s.fault = 0x00 then code else s.fault }

/-- The codes a command of the block can raise (60_exceptions.md R211): UnknownMode, 0x04, is not among them. -/
def raisedCodes : List Byte := [0x01, 0x02, 0x03, 0x05, 0x10, 0x11, 0x12, 0x13]

/-- STATUS holds 0 or a code the block raises (R211). -/
abbrev State.StatusLegal (s : State) : Prop := s.status = 0x00 ∨ s.status ∈ raisedCodes

/-- FAULT holds 0 or a code the block raises, and never FaultPending, which only a nonzero FAULT provokes (44_framer.md
R181, 10_state.md R13). -/
abbrev State.FaultLegal (s : State) : Prop := s.fault = 0x00 ∨ (s.fault ∈ raisedCodes ∧ s.fault ≠ 0x13)

/-- When the last command raised an error, FAULT is nonzero (R210). -/
abbrev State.StatusImpliesFault (s : State) : Prop := s.status ≠ 0x00 → s.fault ≠ 0x00

/-- The chunk window was inside IBUF when SETCHUNK set it (43_bitfield.md R145). -/
abbrev State.WindowFits (s : State) : Prop := s.chunkBase.toNat + s.chunkLen.toNat ≤ s.cfg.ibufSize

/-- RX_BODY_LEN counts the bytes after the 8-byte header of a frame that was in IBUF (44_framer.md R187). -/
abbrev State.BodyFits (s : State) : Prop := s.rxBodyLen.toNat + 8 ≤ s.cfg.ibufSize

/-- RES[63:16] is 0 (10_state.md R15). -/
abbrev State.ResultFits (s : State) : Prop := s.res.toNat < 2 ^ 16

/-- The block's invariant. -/
abbrev State.Inv (s : State) : Prop :=
  s.cfg.Legal ∧ Memory.wf s ∧ s.WindowFits ∧ s.BodyFits ∧ s.ResultFits ∧ s.StatusLegal ∧ s.FaultLegal ∧
    s.StatusImpliesFault

end Sys2Proof.Machine
end

