-- ==== Sys2Proof/Machine/Rules.lean ====
section
/-! DEFINITION. Vocabulary of the statements: the spec's pseudocode of whole commands written out a second time, in
arithmetic on naturals and apart from the meanings, so that a statement compares the two; and sequences of commands. -/

namespace Sys2Proof.Rules

open Sys2Proof.Machine

/-- What 30_encoding.md R69 and a command's own rule say of every word of opcode op: with a reserved bit set it raises
IllegalCommand, else it has the rule's effect, in the state from which the word has been taken. -/
def WordRule (op : Byte) (reserved : Word64) (effect : Word64 → State → State) : Prop :=
  ∀ (s : State) (w : Word64) (rest : List Word64), s.pending = w :: rest → w.extractLsb 63 56 = op →
    (w &&& reserved ≠ 0 → step s = .next (afterError 0x10 { s with pending := rest })) ∧
    (w &&& reserved = 0 → step s = .next (effect w { s with pending := rest }))

/-- The opcodes 30_encoding.md R70 lists as unassigned. -/
def unassigned (op : Nat) : Bool :=
  decide (0x08 ≤ op ∧ op ≤ 0x0F) || decide (0x14 ≤ op ∧ op ≤ 0x1F) || decide (0x25 ≤ op ∧ op ≤ 0x2F) ||
    decide (0x33 ≤ op)

/-- A bit that the format of opcode op reserves (the tables of R62-R66, the formats of R68) is one. -/
def reservedSet (op : Nat) (w : Word64) : Bool :=
  (decide (op ∈ [0x00, 0x01, 0x02, 0x04, 0x06, 0x10, 0x13, 0x22, 0x24, 0x31]) && decide (w.toNat % 2 ^ 56 ≠ 0)) ||
    (decide (op ∈ [0x05, 0x07, 0x11, 0x30, 0x32]) && decide (w.toNat / 2 ^ 8 % 2 ^ 48 ≠ 0)) ||
    (decide (op ∈ [0x12, 0x20]) && decide (w.toNat / 2 ^ 32 % 2 ^ 24 ≠ 0)) ||
    (decide (op = 0x03) && decide (w.toNat / 2 ^ 24 % 2 ^ 32 ≠ 0))

/-- UNPACK with V nonzero, or QUERY of an entry of 3 or more (R70). -/
def badOperand (op : Nat) (w : Word64) : Bool :=
  (decide (op = 0x21) && decide (w.toNat % 2 ^ 32 ≠ 0)) || (decide (op = 0x32) && decide (3 ≤ w.toNat % 2 ^ 8))

/-- The words that raise IllegalCommand (R69, R70). -/
abbrev IllegalWord (w : Word64) : Prop :=
  unassigned (w.toNat / 2 ^ 56) = true ∨ reservedSet (w.toNat / 2 ^ 56) w = true ∨
    badOperand (w.toNat / 2 ^ 56) w = true

/-- valid of 43_bitfield.md R140. -/
abbrev SpecValid (bi lo hi : Nat) : Prop := 1 ≤ bi ∧ 1 ≤ lo ∧ lo ≤ hi ∧ hi ≤ 16

/-- w of R141. -/
def unitWidth (hi : Nat) : Nat := if 8 < hi then 16 else 8

/-- need of R151. -/
def unitBytes (bi hi : Nat) : Nat := if 8 < hi then bi + 1 else bi

/-- P of R155. -/
def target (bi hi : Nat) : Nat := (bi - 1) * 8 + (unitWidth hi - hi)

/-- n of R155. -/
def fieldBits (lo hi : Nat) : Nat := hi - lo + 1

/-- W[HI-1 : LO-1] of R151, c(j) being IBUF[CHUNK_BASE + j]. -/
def unpackValue (bi lo hi : Nat) (s : State) : Nat :=
  let c := fun j => (s.ibuf.getD (s.chunkBase.toNat + j) 0).toNat
  let unit := if 8 < hi then 256 * c (bi - 1) + c bi else c (bi - 1)
  unit / 2 ^ (lo - 1) % 2 ^ (hi - lo + 1)

/-- UNPACK's pseudocode (R151) with its errors in the order of R152. -/
def unpack (bi lo hi : Nat) (s : State) : State :=
  if ¬ SpecValid bi lo hi then afterError 0x01 s
  else if s.ibuf.length < s.chunkBase.toNat + s.chunkLen.toNat then afterError 0x12 s
  else if s.chunkLen.toNat < unitBytes bi hi then afterError 0x02 s
  else { s with status := 0x00, res := BitVec.ofNat 64 (unpackValue bi lo hi s) }

/-- ACC after PACK's two loops (R155): zeros from ACC_LEN to L-1, then V[n-1] down to V[0]. -/
def packBits (bi lo hi v : Nat) (acc : List Bool) : List Bool :=
  acc ++ List.replicate (max acc.length (target bi hi) - acc.length) false ++
    (List.range (fieldBits lo hi)).map fun k => v.testBit (fieldBits lo hi - 1 - k)

/-- PACK's pseudocode (R155) with its errors in the order of R158. -/
def pack (bi lo hi v : Nat) (s : State) : State :=
  if ¬ SpecValid bi lo hi then afterError 0x01 s
  else if 2 ^ fieldBits lo hi ≤ v then afterError 0x03 s
  else if s.cfg.accMaxBits < max s.acc.length (target bi hi) + fieldBits lo hi then afterError 0x11 s
  else { s with status := 0x00, acc := packBits bi lo hi v s.acc }

/-- The bytes of 43_bitfield.md R160: m of them, bit 7-j of byte k being a(8k+j). -/
def IsPayloadOf (bytes : List Byte) (acc : List Bool) : Prop :=
  bytes.length = (acc.length + 7) / 8 ∧
    ∀ k j, k < bytes.length → j < 8 → (bytes.getD k 0).getLsbD (7 - j) = acc.getD (8 * k + j) false

/-- FRAME's body (44_framer.md R184) for a payload of N bytes. -/
def bodyOf (addr : BitVec 24) (type : Byte) (payload : List Byte) : List Byte :=
  [addr.extractLsb 23 16, addr.extractLsb 15 8, addr.extractLsb 7 0, type,
    BitVec.ofNat 8 (payload.length / 256), BitVec.ofNat 8 payload.length] ++ payload

/-- FRAME's frame (R184) given the checksum c of its body. -/
def wireOf (addr : BitVec 24) (type : Byte) (payload : List Byte) (c : BitVec 16) : List Byte :=
  [0x55, 0x55] ++ bodyOf addr type payload ++ [c.extractLsb 15 8, c.extractLsb 7 0]

/-- Commands executed in order (10_state.md R24, 20_memory.md R50). -/
def runAll : List Instr → State → Result
  | [], s => .next s
  | i :: rest, s =>
    match exec i s with
    | .next t => runAll rest t
    | .fault r => .fault r
    | .refused r => .refused r

/-- Every host read answers the same in s and in t (10_state.md R26). -/
def SameReads (s t : State) : Prop :=
  (∀ n, readReg n s = readReg n t) ∧
    ∀ i, readIbuf i s = readIbuf i t ∧ readPbuf i s = readPbuf i t ∧ readObuf i s = readObuf i t ∧
      readAcc i s = readAcc i t

/-- Where the fields of a list of PACKs begin in ACC, which holds len bits before the first (43_bitfield.md R155, L). -/
def landings : List (FieldSpec × BitVec 32) → Nat → List Nat
  | [], _ => []
  | (f, _) :: rest, len =>
    max len (target f.byteIndex.toNat f.bitHigh.toNat) ::
      landings rest (max len (target f.byteIndex.toNat f.bitHigh.toNat) + fieldBits f.bitLow.toNat f.bitHigh.toNat)

/-- ACC_LEN after a list of PACKs that complete, from len bits. -/
def lengthAfter : List (FieldSpec × BitVec 32) → Nat → Nat
  | [], len => len
  | (f, _) :: rest, len =>
    lengthAfter rest
      (max len (target f.byteIndex.toNat f.bitHigh.toNat) + fieldBits f.bitLow.toNat f.bitHigh.toNat)

/-- Each field's P is at least the end of what is packed before it (43_bitfield.md R162). -/
def InOrder : List (FieldSpec × BitVec 32) → Nat → Prop
  | [], _ => True
  | (f, _) :: rest, len =>
    len ≤ target f.byteIndex.toNat f.bitHigh.toNat ∧
      InOrder rest (target f.byteIndex.toNat f.bitHigh.toNat + fieldBits f.bitLow.toNat f.bitHigh.toNat)

/-- The codes each command may raise (60_exceptions.md R211, R214); IllegalCommand for a word that is no command apart. -/
def mayRaise : Instr → List Byte
  | .nop => []
  | .srst => []
  | .errclr => []
  | .setaddr _ => []
  | .ibclr => []
  | .ibput _ => [0x11]
  | .pbclr => []
  | .pbput _ => [0x11]
  | .crcinit => []
  | .crcbyte _ => []
  | .crcib _ _ => [0x12]
  | .crcrd => []
  | .setchunk _ _ => [0x12]
  | .unpack _ => [0x01, 0x12, 0x02]
  | .pkclr => []
  | .pack _ _ => [0x01, 0x03, 0x11]
  | .pkfin => []
  | .frame _ => [0x13]
  | .unframe => [0x05]
  | .query _ => [0x10]

end Sys2Proof.Rules
end

