-- ==== Sys2Proof/Certificates/Slice0/Obligations.lean ====
section
/-! DEFINITION. The statements for the provers. Each docstring names the rule it formalises. -/

open Sys2Proof Sys2Proof.Machine Sys2Proof.Rules

/-! ## Words and decoding -/

/-- The example words of the R71 table, and the program words of 95_test_vectors.md for the other families, decode to the
commands the spec reads them as. -/
def Obligations.ExampleWordsDecode : Prop :=
  decode 0x3100000000000000 = .instr .unframe ∧
  decode 0x300000000000002C = .instr (.frame 0x2c) ∧
  decode 0x030000000090B001 = .instr (.setaddr 0x90b001) ∧
  decode 0x2000000000080006 = .instr (.setchunk 8 6) ∧
  decode 0x2301050800000004 = .instr (.pack { byteIndex := 1, bitLow := 5, bitHigh := 8 } 4) ∧
  decode 0x2101010600000000 = .instr (.unpack { byteIndex := 1, bitLow := 1, bitHigh := 6 }) ∧
  decode 0x1200000000020012 = .instr (.crcib 2 18) ∧
  decode 0x3200000000000003 = .illegal .queryEntry ∧
  decode 0x0300000001000000 = .illegal .reservedBits

/-- Every well-formed command decodes from its own word, at every value of its operands. -/
def Obligations.DecodeOfEncode : Prop := ∀ i : Instr, WellFormed i = true → decode (encode i) = .instr i

/-- Every word that is a command is that command's one word, and the command is well formed. -/
def Obligations.EncodeOfDecode : Prop :=
  ∀ (w : Word64) (i : Instr), decode w = .instr i → WellFormed i = true ∧ encode i = w

/-- R69: a word raises IllegalCommand exactly when one of R69's checks fails, and then only STATUS and FAULT change; any
other word executes the command it encodes. -/
def Obligations.IllegalCommandWords : Prop :=
  ∀ (s : State) (w : Word64) (rest : List Word64), s.pending = w :: rest →
    (IllegalWord w → step s = .next (afterError 0x10 { s with pending := rest })) ∧
    (¬ IllegalWord w →
      ∃ i, WellFormed i = true ∧ encode i = w ∧ step s = exec i { s with pending := rest })

/-- A step with a word issued always ends in a next state, with that one word taken and the parameters unchanged (R50, R70,
R258); with none issued there is no step. The issued words' place in State and the refusal are log entry 2. -/
def Obligations.EveryWordCompletes : Prop :=
  (∀ (s : State) (w : Word64) (rest : List Word64), s.pending = w :: rest →
    ∃ t, step s = .next t ∧ t.pending = rest ∧ t.cfg = s.cfg) ∧
  ∀ s : State, s.pending = [] → step s = .refused .noCommand

/-- A step is the decoded command's meaning in the state from which its word has been taken (log entry 2). -/
def Obligations.StepRunsDecodedCommand : Prop :=
  (∀ (s : State) (w : Word64) (rest : List Word64) (i : Instr), s.pending = w :: rest → decode w = .instr i →
    step s = exec i { s with pending := rest }) ∧
  ∀ (s : State) (i : Instr), WellFormed i = true → step (s.withFetchWord 64 (encode i).toNat) = exec i s

/-! ## Each command's rule, from its word -/

/-- R100, R101, R103, R105, R107: NOP, SRST, SETADDR, IBPUT and PBPUT. That SRST keeps the words the host has issued is the
model's choice, log entry 2. -/
def Obligations.ControlWords : Prop :=
  WordRule 0x00 0x00FFFFFFFFFFFFFF (fun _ s => { s with status := 0x00 }) ∧
  WordRule 0x01 0x00FFFFFFFFFFFFFF (fun _ s =>
    { s with
      status := 0x00, fault := 0x00, crc := 0xFFFF, res := 0, addr := s.cfg.resetAddr, chunkBase := 0,
      chunkLen := 0, rxAddr := 0, rxId := 0, rxType := 0, rxLen := 0, rxBodyLen := 0, acc := [], ibuf := [],
      pbuf := [], obuf := [] }) ∧
  WordRule 0x03 0x00FFFFFFFF000000 (fun w s => { s with status := 0x00, addr := w.extractLsb 23 0 }) ∧
  WordRule 0x05 0x00FFFFFFFFFFFF00 (fun w s =>
    if s.ibuf.length = s.cfg.ibufSize then afterError 0x11 s
    else { s with status := 0x00, ibuf := s.ibuf ++ [w.extractLsb 7 0] }) ∧
  WordRule 0x07 0x00FFFFFFFFFFFF00 (fun w s =>
    if s.pbuf.length = s.cfg.pbufSize then afterError 0x11 s
    else { s with status := 0x00, pbuf := s.pbuf ++ [w.extractLsb 7 0] })

/-- R102, R104, R106: ERRCLR, IBCLR and PBCLR, with the consequences their corner cases name: only ERRCLR and SRST clear
FAULT; UNPACK with a window that is not empty at 0 raises BufferRange over an empty IBUF; FRAME frames an empty PBUF. -/
def Obligations.ClearingWords : Prop :=
  WordRule 0x02 0x00FFFFFFFFFFFFFF (fun _ s => { s with status := 0x00, fault := 0x00 }) ∧
  WordRule 0x04 0x00FFFFFFFFFFFFFF (fun _ s => { s with status := 0x00, ibuf := [] }) ∧
  WordRule 0x06 0x00FFFFFFFFFFFFFF (fun _ s => { s with status := 0x00, pbuf := [] }) ∧
  (∀ (i : Instr) (s t : State), exec i s = .next t → s.fault ≠ 0x00 → t.fault = 0x00 → i = .errclr ∨ i = .srst) ∧
  (∀ (f : FieldSpec) (s : State), f.valid = true → s.ibuf = [] → 0 < s.chunkBase.toNat + s.chunkLen.toNat →
    exec (.unpack f) s = .next (afterError 0x12 s)) ∧
  ∀ (k : Byte) (s : State), s.pbuf = [] → s.fault = 0x00 →
    ∃ t, exec (.frame k) s = .next t ∧
      t.obuf.take 8 = [0x55, 0x55] ++ be24 s.addr ++ [k, 0x00, 0x00] ∧ t.obuf.length = 10

/-- R125, R126, R128: CRCINIT, CRCBYTE and CRCRD; CRCBYTE is not idempotent. -/
def Obligations.ChecksumWords : Prop :=
  WordRule 0x10 0x00FFFFFFFFFFFFFF (fun _ s => { s with status := 0x00, crc := 0xFFFF }) ∧
  WordRule 0x11 0x00FFFFFFFFFFFF00 (fun w s =>
    { s with status := 0x00, crc := crcUpdate s.crc (w.extractLsb 7 0) }) ∧
  WordRule 0x13 0x00FFFFFFFFFFFFFF (fun _ s => { s with status := 0x00, res := s.crc.setWidth 64 }) ∧
  ∃ (b : Byte) (s t u : State), exec (.crcbyte b) s = .next t ∧ exec (.crcbyte b) t = .next u ∧ u ≠ t

/-- R127: CRCIB folds IBUF[OFF .. OFF+LEN-1] into CRC in order, or raises BufferRange; the sum does not wrap. -/
def Obligations.CrcibWord : Prop :=
  WordRule 0x12 0x00FFFFFF00000000 (fun w s =>
    let off := w.toNat / 2 ^ 16 % 2 ^ 16
    let len := w.toNat % 2 ^ 16
    if s.ibuf.length < off + len then afterError 0x12 s
    else { s with
      status := 0x00, crc := (List.range len).foldl (fun c i => crcUpdate c (s.ibuf.getD (off + i) 0)) s.crc })

/-- R145: SETCHUNK sets the window or raises BufferRange; after an empty window every UNPACK of a valid spec raises
ByteOutOfRange. -/
def Obligations.SetchunkWord : Prop :=
  WordRule 0x20 0x00FFFFFF00000000 (fun w s =>
    if s.ibuf.length < w.toNat / 2 ^ 16 % 2 ^ 16 + w.toNat % 2 ^ 16 then afterError 0x12 s
    else { s with status := 0x00, chunkBase := w.extractLsb 31 16, chunkLen := w.extractLsb 15 0 }) ∧
  ∀ (f : FieldSpec) (off : BitVec 16) (s : State), f.valid = true → off.toNat ≤ s.ibuf.length →
    ∃ t, exec (.setchunk off 0) s = .next t ∧ exec (.unpack f) t = .next (afterError 0x02 t)

/-- R150, R151, R152: UNPACK's word with V = 0 follows R151's pseudocode; with V nonzero it raises IllegalCommand. -/
def Obligations.UnpackWord : Prop :=
  WordRule 0x21 0x00000000FFFFFFFF (fun w s =>
    unpack (w.toNat / 2 ^ 48 % 2 ^ 8) (w.toNat / 2 ^ 40 % 2 ^ 8) (w.toNat / 2 ^ 32 % 2 ^ 8) s)

/-- R155, R158: PACK's word follows R155's pseudocode, its errors in R158's order and with no padding left behind. -/
def Obligations.PackWord : Prop :=
  WordRule 0x23 0x0000000000000000 (fun w s =>
    pack (w.toNat / 2 ^ 48 % 2 ^ 8) (w.toNat / 2 ^ 40 % 2 ^ 8) (w.toNat / 2 ^ 32 % 2 ^ 8) (w.toNat % 2 ^ 32) s)

/-- R154, R160: PKCLR empties ACC; PKFIN's payload is the accumulator's bits, most significant first, zeros past the end,
and fits PBUF whenever ACC fits its capacity. -/
def Obligations.PkclrPkfinWords : Prop :=
  WordRule 0x22 0x00FFFFFFFFFFFFFF (fun _ s => { s with status := 0x00, acc := [] }) ∧
  (∃ payload : List Bool → List Byte, (∀ acc, IsPayloadOf (payload acc) acc) ∧
    WordRule 0x24 0x00FFFFFFFFFFFFFF (fun _ s => { s with status := 0x00, pbuf := payload s.acc })) ∧
  ∀ (s t : State), exec .pkfin s = .next t → s.acc.length ≤ s.cfg.accMaxBits → t.pbuf.length ≤ s.cfg.pbufSize

/-- R184: FRAME's word follows R184's pseudocode, and its frame never passes OBUF's capacity. -/
def Obligations.FrameWord : Prop :=
  WordRule 0x30 0x00FFFFFFFFFFFF00 (fun w s =>
    if s.fault ≠ 0x00 then afterError 0x13 s
    else
      let c := checksum (bodyOf s.addr (w.extractLsb 7 0) s.pbuf)
      { s with status := 0x00, obuf := wireOf s.addr (w.extractLsb 7 0) s.pbuf c, crc := c }) ∧
  ∀ (k : Byte) (s t : State), exec (.frame k) s = .next t → s.pbuf.length ≤ s.cfg.pbufSize →
    s.obuf.length ≤ s.cfg.obufSize → t.obuf.length ≤ t.cfg.obufSize

/-- R187, R188: UNFRAME's word follows R187's pseudocode, and checks the length alone. -/
def Obligations.UnframeWord : Prop :=
  WordRule 0x31 0x00FFFFFFFFFFFFFF (fun _ s =>
    let raw := fun i => s.ibuf.getD i 0
    if s.ibuf.length < 8 then afterError 0x05 s
    else { s with
      status := 0x00
      rxAddr := BitVec.ofNat 16 (256 * (raw 2).toNat + (raw 3).toNat)
      rxId := raw 4
      rxType := raw 5
      rxLen := BitVec.ofNat 16 (256 * (raw 6).toNat + (raw 7).toNat)
      rxBodyLen := BitVec.ofNat 16 (s.ibuf.length - 8) })

/-- R192, R193: QUERY's word copies the ROM entry, entry 2 in the form AC_QUERY_LITERAL selects, whatever FAULT holds; an
entry above 2 raises IllegalCommand. That the copy completes with PBUF_SIZE = 1 too is the model's reading, log entry 4. -/
def Obligations.QueryWord : Prop :=
  WordRule 0x32 0x00FFFFFFFFFFFF00 (fun w s =>
    match w.toNat % 2 ^ 8 with
    | 0 => { s with
        status := 0x00, obuf := [0x55, 0x55, 0x80, 0xb0, 0x01, 0x2b, 0x00, 0x00, 0xf5, 0x2f] }
    | 1 => { s with
        status := 0x00, obuf := [0x55, 0x55, 0x90, 0xb0, 0x01, 0x1f, 0x00, 0x02, 0xff, 0x12, 0x82, 0x0c] }
    | 2 => { s with
        status := 0x00
        obuf :=
          if s.cfg.acQueryLiteral = true then
            [0x55, 0x55, 0x80, 0xb0, 0x01, 0x2d, 0x00, 0x00, 0xf4, 0xcf, 0xe3, 0x52]
          else [0x55, 0x55, 0x80, 0xb0, 0x01, 0x2d, 0x00, 0x00, 0xf4, 0xcf] }
    | _ => afterError 0x10 s)

/-! ## Where each command completes -/

/-- NOP, SRST, ERRCLR, SETADDR, IBCLR, PBCLR, CRCINIT, CRCRD and PKCLR complete in every state; each equation is the whole
effect, so everything it does not name is unchanged. That SRST keeps the words the host has issued is log entry 2. -/
def Obligations.UnconditionalCommandsComplete : Prop :=
  ∀ s : State,
    exec .nop s = .next { s with status := 0x00 } ∧
    exec .srst s = .next { State.resetWith s.cfg with pending := s.pending } ∧
    exec .errclr s = .next { s with status := 0x00, fault := 0x00 } ∧
    (∀ a : BitVec 24, exec (.setaddr a) s = .next { s with status := 0x00, addr := a }) ∧
    exec .ibclr s = .next { s with status := 0x00, ibuf := [] } ∧
    exec .pbclr s = .next { s with status := 0x00, pbuf := [] } ∧
    exec .crcinit s = .next { s with status := 0x00, crc := 0xFFFF } ∧
    exec .crcrd s = .next { s with status := 0x00, res := s.crc.setWidth 64 } ∧
    exec .pkclr s = .next { s with status := 0x00, acc := [] }

/-- IBPUT and PBPUT complete while their buffer is not full, and raise BufferOverflow when it is. -/
def Obligations.BufferPutsComplete : Prop :=
  ∀ (b : Byte) (s : State),
    (s.ibuf.length ≠ s.cfg.ibufSize →
      exec (.ibput b) s = .next { s with status := 0x00, ibuf := s.ibuf ++ [b] }) ∧
    (s.ibuf.length = s.cfg.ibufSize → exec (.ibput b) s = .next (afterError 0x11 s)) ∧
    (s.pbuf.length ≠ s.cfg.pbufSize →
      exec (.pbput b) s = .next { s with status := 0x00, pbuf := s.pbuf ++ [b] }) ∧
    (s.pbuf.length = s.cfg.pbufSize → exec (.pbput b) s = .next (afterError 0x11 s))

/-- CRCBYTE completes in every state, and CRCIB of a range inside IBUF is CRCBYTE of each of its bytes in order; a range
that passes the end raises BufferRange. -/
def Obligations.ChecksumFoldsComplete : Prop :=
  (∀ (b : Byte) (s : State), exec (.crcbyte b) s = .next { s with status := 0x00, crc := crcUpdate s.crc b }) ∧
  (∀ (off len : BitVec 16) (s : State), off.toNat + len.toNat ≤ s.ibuf.length →
    ∃ t, exec (.crcib off len) s = .next t ∧
      runAll (((s.ibuf.drop off.toNat).take len.toNat).map .crcbyte) { s with status := 0x00 } = .next t) ∧
  ∀ (off len : BitVec 16) (s : State), s.ibuf.length < off.toNat + len.toNat →
    exec (.crcib off len) s = .next (afterError 0x12 s)

/-- SETCHUNK of a window inside IBUF completes; UNPACK of a valid spec whose unit lies inside a window inside IBUF
completes with the field's value; each otherwise raises the first error of its rule. -/
def Obligations.SetchunkUnpackComplete : Prop :=
  (∀ (off len : BitVec 16) (s : State), off.toNat + len.toNat ≤ s.ibuf.length →
    exec (.setchunk off len) s = .next { s with status := 0x00, chunkBase := off, chunkLen := len }) ∧
  (∀ (f : FieldSpec) (s : State), SpecValid f.byteIndex.toNat f.bitLow.toNat f.bitHigh.toNat →
    s.chunkBase.toNat + s.chunkLen.toNat ≤ s.ibuf.length →
    unitBytes f.byteIndex.toNat f.bitHigh.toNat ≤ s.chunkLen.toNat →
    exec (.unpack f) s = .next { s with
      status := 0x00
      res := BitVec.ofNat 64 (unpackValue f.byteIndex.toNat f.bitLow.toNat f.bitHigh.toNat s) }) ∧
  (∀ (off len : BitVec 16) (s : State), s.ibuf.length < off.toNat + len.toNat →
    exec (.setchunk off len) s = .next (afterError 0x12 s)) ∧
  ∀ (f : FieldSpec) (s : State),
    exec (.unpack f) s = .next (unpack f.byteIndex.toNat f.bitLow.toNat f.bitHigh.toNat s)

/-- PACK of a valid spec and a value that fits, with room in ACC, completes, and PKFIN completes in every state. -/
def Obligations.PackPkfinComplete : Prop :=
  (∀ (f : FieldSpec) (v : BitVec 32) (s : State), SpecValid f.byteIndex.toNat f.bitLow.toNat f.bitHigh.toNat →
    v.toNat < 2 ^ fieldBits f.bitLow.toNat f.bitHigh.toNat →
    max s.acc.length (target f.byteIndex.toNat f.bitHigh.toNat) + fieldBits f.bitLow.toNat f.bitHigh.toNat
      ≤ s.cfg.accMaxBits →
    exec (.pack f v) s = .next { s with
      status := 0x00
      acc := packBits f.byteIndex.toNat f.bitLow.toNat f.bitHigh.toNat v.toNat s.acc }) ∧
  ∀ s : State, ∃ bytes, IsPayloadOf bytes s.acc ∧ exec .pkfin s = .next { s with status := 0x00, pbuf := bytes }

/-- FRAME completes while FAULT is 0; UNFRAME completes with 8 bytes or more in IBUF; QUERY completes for an entry up to 2
and changes only STATUS and OBUF. That QUERY completes with PBUF_SIZE = 1 too is the model's reading, log entry 4. -/
def Obligations.FramerCommandsComplete : Prop :=
  (∀ (k : Byte) (s : State), s.fault = 0x00 →
    exec (.frame k) s = .next { s with
      status := 0x00
      crc := checksum (bodyOf s.addr k s.pbuf)
      obuf := wireOf s.addr k s.pbuf (checksum (bodyOf s.addr k s.pbuf)) }) ∧
  (∀ s : State, 8 ≤ s.ibuf.length →
    exec .unframe s = .next { s with
      status := 0x00
      rxAddr := s.ibuf.getD 2 0 ++ s.ibuf.getD 3 0
      rxId := s.ibuf.getD 4 0
      rxType := s.ibuf.getD 5 0
      rxLen := s.ibuf.getD 6 0 ++ s.ibuf.getD 7 0
      rxBodyLen := BitVec.ofNat 16 (s.ibuf.length - 8) }) ∧
  ∀ (k : Byte) (s : State), k.toNat ≤ 2 →
    ∃ bytes, queryRom s.cfg.acQueryLiteral k = some bytes ∧
      exec (.query k) s = .next { s with status := 0x00, obuf := bytes }

/-! ## Rules of the whole block -/

/-- R210: a step that leaves a nonzero STATUS changes nothing but STATUS and FAULT (and takes its word), and FAULT takes the
code only if it was 0. -/
def Obligations.ErrorsArePrecise : Prop :=
  ∀ (s t : State) (w : Word64) (rest : List Word64), s.pending = w :: rest → step s = .next t → t.status ≠ 0x00 →
    t = { s with
      pending := rest, status := t.status, fault := if s.fault = 0x00 then t.status else s.fault }

/-- R13: FAULT takes the first error's code, keeps it, is cleared by ERRCLR and SRST alone, and while it is nonzero FRAME
raises FaultPending and leaves OBUF unchanged. -/
def Obligations.FaultIsSticky : Prop :=
  (∀ s t : State, step s = .next t → t.status ≠ 0x00 → s.fault = 0x00 → t.fault = t.status) ∧
  (∀ (s t : State) (w : Word64) (rest : List Word64), s.pending = w :: rest → step s = .next t → s.fault ≠ 0x00 →
    decode w ≠ .instr .errclr → decode w ≠ .instr .srst → t.fault = s.fault) ∧
  (∀ s : State, (∃ t, exec .errclr s = .next t ∧ t.fault = 0x00) ∧ ∃ t, exec .srst s = .next t ∧ t.fault = 0x00) ∧
  ∀ (k : Byte) (s : State), s.fault ≠ 0x00 → exec (.frame k) s = .next { s with status := 0x13 }

/-- R251: after an error, through any words of which none is ERRCLR or SRST, a FRAME raises FaultPending and neither OBUF
nor CRC changes at it. -/
def Obligations.FaultBlocksEveryLaterFrame : Prop :=
  ∀ (s : State) (ws rest : List Word64) (k : Byte), s.fault ≠ 0x00 →
    (∀ w ∈ ws, decode w ≠ .instr .errclr ∧ decode w ≠ .instr .srst) →
    s.pending = ws ++ encode (.frame k) :: rest →
    ∃ u t, Host.Core.run core ws.length s = .next u ∧ Host.Core.run core (ws.length + 1) s = .next t ∧
      u.fault = s.fault ∧ t = { u with pending := rest, status := 0x13 }

/-- R11: the table's port numbers, reset values and writers: a register a command is not listed to write keeps its value.
No command changes the parameters (R23; their place in State is log entry 1), and none, SRST included, takes back words the
host has issued, which is the model's choice, log entry 2. -/
def Obligations.RegisterTable : Prop :=
  (∀ c : Config, (List.range 16).map (fun n => readReg n (State.resetWith c)) =
    [some 0, some 0, some 0xFFFF, some 0, some (c.resetAddr.setWidth 64), some 0, some 0, some 0, some 0, some 0,
      some 0, some 0, some 0, some 0, some 0, some 0]) ∧
  ∀ (i : Instr) (s t : State), exec i s = .next t →
    (t.fault ≠ s.fault → i = .errclr ∨ i = .srst ∨ (t.status ≠ 0x00 ∧ s.fault = 0x00)) ∧
    (t.crc ≠ s.crc → i = .crcinit ∨ (∃ b, i = .crcbyte b) ∨ (∃ o l, i = .crcib o l) ∨ (∃ k, i = .frame k) ∨ i = .srst) ∧
    (t.res ≠ s.res → (∃ f, i = .unpack f) ∨ i = .crcrd ∨ i = .srst) ∧
    (t.addr ≠ s.addr → (∃ a, i = .setaddr a) ∨ i = .srst) ∧
    (t.acc ≠ s.acc → i = .pkclr ∨ (∃ f v, i = .pack f v) ∨ i = .srst) ∧
    (t.ibuf ≠ s.ibuf → i = .ibclr ∨ (∃ b, i = .ibput b) ∨ i = .srst) ∧
    (t.pbuf ≠ s.pbuf → i = .pbclr ∨ (∃ b, i = .pbput b) ∨ i = .pkfin ∨ i = .srst) ∧
    (t.obuf ≠ s.obuf → (∃ k, i = .frame k) ∨ (∃ k, i = .query k) ∨ i = .srst) ∧
    (t.chunkBase ≠ s.chunkBase ∨ t.chunkLen ≠ s.chunkLen → (∃ o l, i = .setchunk o l) ∨ i = .srst) ∧
    (t.rxAddr ≠ s.rxAddr ∨ t.rxId ≠ s.rxId ∨ t.rxType ≠ s.rxType ∨ t.rxLen ≠ s.rxLen ∨ t.rxBodyLen ≠ s.rxBodyLen →
      i = .unframe ∨ i = .srst) ∧
    t.cfg = s.cfg ∧ t.pending = s.pending

/-- R211, R214: STATUS after a command is 0 or one of the codes the tables give that command, so never UnknownMode. -/
def Obligations.RaisedCodes : Prop :=
  (∀ (i : Instr) (s t : State), exec i s = .next t → t.status = 0x00 ∨ t.status ∈ mayRaise i) ∧
  ∀ (s t : State), step s = .next t → t.status ≠ 0x04 ∧ (t.status = 0x00 ∨ t.status ∈ raisedCodes)

/-- R46: the fifteen commands R46 lists are idempotent, and the five others are not. -/
def Obligations.IdempotentCommands : Prop :=
  (∀ (i : Instr) (s t : State),
    (i ∈ [.nop, .srst, .errclr, .ibclr, .pbclr, .crcinit, .crcrd, .pkclr, .pkfin, .unframe] ∨
      (∃ a, i = .setaddr a) ∨ (∃ o l, i = .setchunk o l) ∨ (∃ f, i = .unpack f) ∨ (∃ k, i = .frame k) ∨
      ∃ k, i = .query k) →
    exec i s = .next t → exec i t = .next t) ∧
  (∃ b s t u, exec (.ibput b) s = .next t ∧ exec (.ibput b) t = .next u ∧ u ≠ t) ∧
  (∃ b s t u, exec (.pbput b) s = .next t ∧ exec (.pbput b) t = .next u ∧ u ≠ t) ∧
  (∃ b s t u, exec (.crcbyte b) s = .next t ∧ exec (.crcbyte b) t = .next u ∧ u ≠ t) ∧
  (∃ o l s t u, exec (.crcib o l) s = .next t ∧ exec (.crcib o l) t = .next u ∧ u ≠ t) ∧
  ∃ f v s t u, exec (.pack f v) s = .next t ∧ exec (.pack f v) t = .next u ∧ u ≠ t

/-- Every step keeps the invariant: legal parameters, buffers within their capacities, a window and a body length that fit,
RES below 2^16, and STATUS and FAULT holding codes the block raises. -/
def Obligations.StepKeepsInv : Prop := ∀ s t : State, s.Inv → step s = .next t → t.Inv

/-- The invariant holds after power-on with any legal parameters, the defaults among them. -/
def Obligations.ResetHasInv : Prop :=
  (∀ c : Config, c.Legal → (State.resetWith c).Inv) ∧ State.reset.Inv

/-- R28: in a state with the invariant every length register reads as the number of elements of its buffer. -/
def Obligations.LengthRegistersDoNotWrap : Prop :=
  ∀ s : State, s.Inv →
    s.accLen.toNat = s.acc.length ∧ s.ibufLen.toNat = s.ibuf.length ∧ s.pbufLen.toNat = s.pbuf.length ∧
      s.obufLen.toNat = s.obuf.length

/-- R26, R27: the read port answers from the state t that every issued word leaves: its registers, its buffer elements below
the length registers, and no value for any other read. That words can wait at a read is log entry 2. -/
def Obligations.ReadPortAnswers : Prop :=
  (∀ s : State, ∃ t, Host.Core.run core s.pending.length s = .next t ∧ t.pending = [] ∧
    (List.range 16).map (fun n => readReg n s) =
      [some (t.status.setWidth 64), some (t.fault.setWidth 64), some (t.crc.setWidth 64), some t.res,
        some (t.addr.setWidth 64), some (t.accLen.setWidth 64), some (t.ibufLen.setWidth 64),
        some (t.pbufLen.setWidth 64), some (t.obufLen.setWidth 64), some (t.chunkBase.setWidth 64),
        some (t.chunkLen.setWidth 64), some (t.rxAddr.setWidth 64), some (t.rxId.setWidth 64),
        some (t.rxType.setWidth 64), some (t.rxLen.setWidth 64), some (t.rxBodyLen.setWidth 64)] ∧
    (s.Inv → ∀ i : Nat,
      readIbuf i s = (if i < t.ibufLen.toNat then some (t.ibuf.getD i 0) else none) ∧
      readPbuf i s = (if i < t.pbufLen.toNat then some (t.pbuf.getD i 0) else none) ∧
      readObuf i s = (if i < t.obufLen.toNat then some (t.obuf.getD i 0) else none) ∧
      readAcc i s = (if i < t.accLen.toNat then some (t.acc.getD i false) else none))) ∧
  ∀ (s : State) (n : Nat), 0x0F < n → readReg n s = none

/-- R240: power-on puts every register at its reset value, no buffer element can be read, and SRST has the same effect; that
SRST keeps the words the host has issued is the model's choice, log entry 2. -/
def Obligations.PowerOnState : Prop :=
  (∀ c : Config,
    let s := State.resetWith c
    s.status = 0x00 ∧ s.fault = 0x00 ∧ s.crc = 0xFFFF ∧ s.res = 0 ∧ s.addr = c.resetAddr ∧ s.accLen = 0 ∧
    s.ibufLen = 0 ∧ s.pbufLen = 0 ∧ s.obufLen = 0 ∧ s.chunkBase = 0 ∧ s.chunkLen = 0 ∧ s.rxAddr = 0 ∧
    s.rxId = 0 ∧ s.rxType = 0 ∧ s.rxLen = 0 ∧ s.rxBodyLen = 0 ∧
    ∀ i, readIbuf i s = none ∧ readPbuf i s = none ∧ readObuf i s = none ∧ readAcc i s = none) ∧
  State.reset.addr = 0x80B001 ∧
  ∀ s : State, exec .srst s = .next { State.resetWith s.cfg with pending := s.pending }

/-- R50, R24: any words the host has issued execute to the end, and words issued later do not change what they do.
That the issued words are a list of State, which SRST keeps, is the model's choice, log entry 2. -/
def Obligations.CommandsRunInOrder : Prop :=
  ∀ (s : State) (ws : List Word64), ∃ t,
    Host.Core.run core ws.length { s with pending := ws } = .next t ∧
    ∀ later : List Word64,
      Host.Core.run core ws.length { s with pending := ws ++ later } = .next { t with pending := later }

/-! ## The datapaths against the spec's other descriptions -/

/-- R120: the block's checksum is the CRC with R120's parameters. -/
def Obligations.ChecksumIsReflectedCrc : Prop := ∀ bytes : List Byte, checksum bytes = Reference.checksum bytes

/-- R72: the pseudo-commands' expansions do what they are for: IBLOAD and PBLOAD load a byte string that fits, CHECKSUM
leaves the range's checksum in RES, FIELD is UNPACK. -/
def Obligations.PseudoCommandsRun : Prop :=
  (∀ (bytes : List Byte) (s : State), bytes.length ≤ s.cfg.ibufSize →
    runAll (Pseudo.ibload bytes).expand s = .next { s with status := 0x00, ibuf := bytes }) ∧
  (∀ (bytes : List Byte) (s : State), bytes.length ≤ s.cfg.pbufSize →
    runAll (Pseudo.pbload bytes).expand s = .next { s with status := 0x00, pbuf := bytes }) ∧
  (∀ (off len : BitVec 16) (s : State), off.toNat + len.toNat ≤ s.ibuf.length →
    ∃ t, runAll (Pseudo.checksum off len).expand s = .next t ∧ t.status = 0x00 ∧
      t.res = (checksum ((s.ibuf.drop off.toNat).take len.toNat)).setWidth 64) ∧
  ∀ f : FieldSpec, (Pseudo.field f).expand = [.unpack f]

/-- R142, R151: where UNPACK completes, RES is the source's decode: the slice [start-1, end) of the unit's MSB-first string,
parsed as an unsigned binary integer. -/
def Obligations.UnpackIsSourceDecode : Prop :=
  ∀ (f : FieldSpec) (s : State), f.valid = true → s.chunkBase.toNat + s.chunkLen.toNat ≤ s.ibuf.length →
    f.need ≤ s.chunkLen.toNat →
    exec (.unpack f) s = .next { s with
      status := 0x00
      res := BitVec.ofNat 64
        (Reference.decodeField f ((s.ibuf.drop s.chunkBase.toNat).take s.chunkLen.toNat)) }

/-- R156, R157: PACK of a valid spec is the source's encode: pad the accumulator at its tail, left-pad the shortest binary
spelling of the value, append; FieldValueOverflow when the spelling is longer than the field, which is when V ≥ 2^n. -/
def Obligations.PackIsSourceEncode : Prop :=
  (∀ n v : Nat, 1 ≤ n → (n < (Reference.shortestBinary v).length ↔ 2 ^ n ≤ v)) ∧
  ∀ (f : FieldSpec) (v : BitVec 32) (s : State), f.valid = true →
    exec (.pack f v) s = .next (
      match Reference.encodeField f v.toNat s.acc with
      | none => afterError 0x03 s
      | some acc =>
        if s.cfg.accMaxBits < acc.length then afterError 0x11 s else { s with status := 0x00, acc := acc })

/-- R161: the round trip PKCLR, PACK, PKFIN, copy with zero bytes behind, SETCHUNK, UNPACK gives the value back; PKFIN
yields the bytes the unit needs, but one fewer when the field lies in the first byte of a 16-bit unit. -/
def Obligations.PackUnpackRoundTrip : Prop :=
  ∀ (f : FieldSpec) (v : BitVec 32) (s : State), f.valid = true →
    v.toNat < 2 ^ (f.bitHigh.toNat - f.bitLow.toNat + 1) →
    target f.byteIndex.toNat f.bitHigh.toNat + fieldBits f.bitLow.toNat f.bitHigh.toNat ≤ s.cfg.accMaxBits →
    ∃ p, runAll [.pkclr, .pack f v, .pkfin] s = .next p ∧
      p.pbuf.length = (if 9 ≤ f.bitLow.toNat then f.byteIndex.toNat
        else unitBytes f.byteIndex.toNat f.bitHigh.toNat) ∧
      ∀ (q : State) (zeros : Nat) (len : BitVec 16), q.ibuf = p.pbuf ++ List.replicate zeros 0x00 →
        len.toNat = q.ibuf.length → unitBytes f.byteIndex.toNat f.bitHigh.toNat ≤ len.toNat →
        ∃ r, runAll [.setchunk 0 len, .unpack f] q = .next r ∧ r.status = 0x00 ∧ r.res = v.setWidth 64

/-- R162: PACKs of valid specs and fitting values with room complete and put each field at the end of ACC or at its P,
whichever is later; every field lands at its own P exactly when the list is in position order without overlap. -/
def Obligations.PackOrder : Prop :=
  ∀ (fields : List (FieldSpec × BitVec 32)) (s : State),
    (∀ x ∈ fields, x.1.valid = true ∧ x.2.toNat < 2 ^ fieldBits x.1.bitLow.toNat x.1.bitHigh.toNat) →
    lengthAfter fields s.acc.length ≤ s.cfg.accMaxBits →
    (∃ t, runAll (fields.map fun x => .pack x.1 x.2) s = .next t ∧
      t.acc.length = lengthAfter fields s.acc.length ∧
      (∀ j, j < s.acc.length → t.acc.getD j false = s.acc.getD j false) ∧
      ∀ i k, (hi : i < fields.length) → k < fieldBits fields[i].1.bitLow.toNat fields[i].1.bitHigh.toNat →
        t.acc[(landings fields s.acc.length).getD i 0 + k]? =
          some (fields[i].2.getLsbD (fieldBits fields[i].1.bitLow.toNat fields[i].1.bitHigh.toNat - 1 - k))) ∧
    (landings fields s.acc.length = fields.map (fun x => target x.1.byteIndex.toNat x.1.bitHigh.toNat) ↔
      InOrder fields s.acc.length)

/-- R43: a 16-bit unit at byteIndex b and the 8-bit units at b+1 and b share their bytes: positions p of the unit at b+1 and
p + 8 of the unit at b, as UNPACK reads them. -/
def Obligations.MixedWidthUnits : Prop :=
  (∀ (chunk : List Byte) (f g h : FieldSpec), 1 ≤ f.byteIndex.toNat → 8 < f.bitHigh.toNat →
    g.byteIndex.toNat = f.byteIndex.toNat + 1 → g.bitHigh.toNat ≤ 8 →
    h.byteIndex = f.byteIndex → h.bitHigh.toNat ≤ 8 →
    f.unit chunk % 256 = g.unit chunk ∧
    ∀ p, 1 ≤ p → p ≤ 8 →
      (g.unit chunk).testBit (p - 1) = (f.unit chunk).testBit (p - 1) ∧
      (h.unit chunk).testBit (p - 1) = (f.unit chunk).testBit (p + 8 - 1)) ∧
  ∀ (f h : FieldSpec) (s t u : State), h.valid = true → h.bitHigh.toNat ≤ 8 → f.byteIndex = h.byteIndex →
    f.bitLow.toNat = h.bitLow.toNat + 8 → f.bitHigh.toNat = h.bitHigh.toNat + 8 →
    exec (.unpack f) s = .next t → t.status = 0x00 → exec (.unpack h) s = .next u → u = t

/-! ## The framer -/

/-- R182, R183: the outbound frame's layout, byte by byte, and the range its checksum covers. -/
def Obligations.FrameLayout : Prop :=
  ∀ (k : Byte) (s : State), s.fault = 0x00 → s.pbuf.length < 2 ^ 16 →
    ∃ t, exec (.frame k) s = .next t ∧
      t.obuf.length = s.pbuf.length + 10 ∧
      t.obuf.take 2 = [0x55, 0x55] ∧
      (t.obuf.drop 2).take 3 = [s.addr.extractLsb 23 16, s.addr.extractLsb 15 8, s.addr.extractLsb 7 0] ∧
      t.obuf[5]? = some k ∧
      256 * (t.obuf.getD 6 0).toNat + (t.obuf.getD 7 0).toNat = s.pbuf.length ∧
      (t.obuf.drop 8).take s.pbuf.length = s.pbuf ∧
      (∀ c : BitVec 16, c = checksum ((t.obuf.drop 2).take (s.pbuf.length + 6)) →
        t.obuf.drop (s.pbuf.length + 8) = [c.extractLsb 15 8, c.extractLsb 7 0])

/-- R194: each default ROM entry is the frame FRAME builds with the matching address, type byte and payload. -/
def Obligations.RomIsFramed : Prop :=
  ∀ (s : State), s.fault = 0x00 →
    (s.addr = 0x80B001 → s.pbuf = [] →
      ∃ t u, exec (.frame 0x2b) s = .next t ∧ exec (.query 0) s = .next u ∧ t.obuf = u.obuf) ∧
    (s.addr = 0x90B001 → s.pbuf = [0xff, 0x12] →
      ∃ t u, exec (.frame 0x1f) s = .next t ∧ exec (.query 1) s = .next u ∧ t.obuf = u.obuf) ∧
    (s.addr = 0x80B001 → s.pbuf = [] → s.cfg.acQueryLiteral = false →
      ∃ t u, exec (.frame 0x2d) s = .next t ∧ exec (.query 2) s = .next u ∧ t.obuf = u.obuf)

/-- UNFRAME of a frame that FRAME built gives back its address, split into address and id (90_conflicts.md C5), its type
and its payload length; the body length counts the two checksum bytes (R189). -/
def Obligations.UnframeOfFrame : Prop :=
  ∀ (k : Byte) (s t q : State), s.pbuf.length + 10 < 2 ^ 16 → s.fault = 0x00 → exec (.frame k) s = .next t →
    q.ibuf = t.obuf →
    ∃ r, exec .unframe q = .next r ∧ r.status = 0x00 ∧ r.rxAddr = s.addr.extractLsb 23 8 ∧
      r.rxId = s.addr.extractLsb 7 0 ∧ r.rxType = k ∧ r.rxLen.toNat = s.pbuf.length ∧
      r.rxBodyLen.toNat = s.pbuf.length + 2

/-- R191: the host's verification of T bytes in IBUF leaves the checksum of raw[2 : T-2] in CRC and the received checksum in
RES, and on a frame that FRAME built the two are equal. -/
def Obligations.HostVerification : Prop :=
  ∀ (s : State) (T : Nat), s.ibuf.length = T → 10 ≤ T → T < 2 ^ 16 →
    ∃ t, runAll [.crcinit, .crcib 2 (BitVec.ofNat 16 (T - 4)), .setchunk (BitVec.ofNat 16 (T - 2)) 2,
        .unpack { byteIndex := 1, bitLow := 1, bitHigh := 16 }] s = .next t ∧
      t.status = 0x00 ∧
      t.crc = checksum ((s.ibuf.drop 2).take (T - 4)) ∧
      t.res.toNat = 256 * (s.ibuf.getD (T - 2) 0).toNat + (s.ibuf.getD (T - 1) 0).toNat ∧
      ∀ (k : Byte) (a b : State), a.fault = 0x00 → exec (.frame k) a = .next b → s.ibuf = b.obuf →
        t.crc.setWidth 64 = t.res ∧ (s.pending = [] → readReg 0x02 t = readReg 0x03 t)

/-- With PBUF_SIZE of 2 or more every command keeps OBUF within OBUF_SIZE. -/
def Obligations.ObufCapacityFromTwo : Prop :=
  ∀ (i : Instr) (s t : State), Memory.wf s → s.obuf.length ≤ s.cfg.obufSize → 2 ≤ s.cfg.pbufSize →
    exec i s = .next t → t.obuf.length ≤ t.cfg.obufSize

/-- R21's claim that OBUF's capacity is always enough, over every legal parameter: it FAILS at PBUF_SIZE = 1, where OBUF_SIZE
is 11 and ROM entry 1 has 12 bytes (log entry 4). -/
def Obligations.ObufCapacityAlways : Prop :=
  ∀ (i : Instr) (s t : State), s.Inv → s.obuf.length ≤ s.cfg.obufSize → exec i s = .next t →
    t.obuf.length ≤ t.cfg.obufSize

/-- R50, R26: a read is not affected by how many of the issued words have executed; after the host issues w, every read
answers as the state u does in which w has executed after all words issued before it. That words can wait at a read is log
entry 2. -/
def Obligations.ReadsSeeIssuedCommands : Prop :=
  (∀ s t : State, step s = .next t → SameReads s t) ∧
  ∀ (s : State) (w : Word64), ∃ t u, Host.Core.run core s.pending.length s = .next t ∧ t.pending = [] ∧
    step (issue w t) = .next u ∧ u.pending = [] ∧ SameReads (issue w s) u
end

