-- ==== Sys2Proof/Laws/Decode.lean ====
section
/-! SUPPORT. The fields of encoded words, and the reserved masks as ranges of bits. -/

namespace Sys2Proof

theorem extract_toNat (w : Word64) (lo n : Nat) : (w.extractLsb' lo n).toNat = w.toNat / 2 ^ lo % 2 ^ n := by
  rw [BitVec.extractLsb'_toNat, Nat.shiftRight_eq_div_pow]

@[simp] theorem opField_toNat (w : Word64) : (opField w).toNat = w.toNat / 2 ^ 56 := by
  rw [opField, extract_toNat]
  have := w.isLt
  omega

@[simp] theorem imm8Field_toNat (w : Word64) : (imm8Field w).toNat = w.toNat % 2 ^ 8 := by
  simp [imm8Field]

@[simp] theorem imm24Field_toNat (w : Word64) : (imm24Field w).toNat = w.toNat % 2 ^ 24 := by
  simp [imm24Field]

@[simp] theorem offField_toNat (w : Word64) : (offField w).toNat = w.toNat / 2 ^ 16 % 2 ^ 16 :=
  extract_toNat w 16 16

@[simp] theorem lenField_toNat (w : Word64) : (lenField w).toNat = w.toNat % 2 ^ 16 := by
  simp [lenField]

@[simp] theorem valueField_toNat (w : Word64) : (valueField w).toNat = w.toNat % 2 ^ 32 := by
  simp [valueField]

@[simp] theorem specField_byteIndex_toNat (w : Word64) :
    (specField w).byteIndex.toNat = w.toNat / 2 ^ 48 % 2 ^ 8 := extract_toNat w 48 8

@[simp] theorem specField_bitLow_toNat (w : Word64) :
    (specField w).bitLow.toNat = w.toNat / 2 ^ 40 % 2 ^ 8 := extract_toNat w 40 8

@[simp] theorem specField_bitHigh_toNat (w : Word64) :
    (specField w).bitHigh.toNat = w.toNat / 2 ^ 32 % 2 ^ 8 := extract_toNat w 32 8

/-- A mask of n bits from bit lo tests exactly those bits. -/
theorem and_mask_eq_zero_iff (w mask : Word64) (lo n : Nat)
    (h : ∀ i, i < 64 → mask.getLsbD i = (decide (lo ≤ i) && decide (i < lo + n))) (hn : lo + n ≤ 64) :
    w &&& mask = 0 ↔ w.toNat / 2 ^ lo % 2 ^ n = 0 := by
  rw [← extract_toNat]
  constructor
  · intro hw
    have : w.extractLsb' lo n = 0#n := by
      apply BitVec.eq_of_getLsbD_eq
      intro i hi
      have hb := congrArg (fun v => BitVec.getLsbD v (lo + i)) hw
      have hm := h (lo + i) (by omega)
      simp only [BitVec.getLsbD_and, hm] at hb
      simpa [BitVec.getLsbD_extractLsb', hi] using hb
    simp [this]
  · intro hw
    apply BitVec.eq_of_getLsbD_eq
    intro i hi
    rw [BitVec.getLsbD_and, h i hi]
    by_cases hr : lo ≤ i ∧ i < lo + n
    · have hz : w.extractLsb' lo n = 0#n := BitVec.eq_of_toNat_eq (by simpa using hw)
      have hb := congrArg (fun v => BitVec.getLsbD v (i - lo)) hz
      have : i - lo < n := by omega
      have hw' : w.getLsbD i = false := by
        simpa [BitVec.getLsbD_extractLsb', this, Nat.add_sub_cancel' hr.1] using hb
      simp [hw']
    · simp
      omega

theorem reservedN_clear_iff (w : Word64) : w &&& reservedMask .n = 0 ↔ w.toNat % 2 ^ 56 = 0 := by
  simpa using and_mask_eq_zero_iff w (reservedMask .n) 0 56 (by decide +kernel) (by decide)

theorem reservedB_clear_iff (w : Word64) : w &&& reservedMask .b = 0 ↔ w.toNat / 2 ^ 8 % 2 ^ 48 = 0 :=
  and_mask_eq_zero_iff w (reservedMask .b) 8 48 (by decide +kernel) (by decide)

theorem reservedA_clear_iff (w : Word64) : w &&& reservedMask .a = 0 ↔ w.toNat / 2 ^ 24 % 2 ^ 32 = 0 :=
  and_mask_eq_zero_iff w (reservedMask .a) 24 32 (by decide +kernel) (by decide)

theorem reservedR_clear_iff (w : Word64) : w &&& reservedMask .r = 0 ↔ w.toNat / 2 ^ 32 % 2 ^ 24 = 0 :=
  and_mask_eq_zero_iff w (reservedMask .r) 32 24 (by decide +kernel) (by decide)

theorem reservedF_clear (w : Word64) : w &&& reservedMask .f = 0 := by simp [reservedMask]

theorem place_toNat {n : Nat} (lo : Nat) (v : BitVec n) (h : lo + n ≤ 64) :
    (place lo v).toNat = v.toNat * 2 ^ lo := by
  have hv : v.toNat * 2 ^ lo < 2 ^ 64 :=
    calc _ < 2 ^ n * 2 ^ lo := Nat.mul_lt_mul_of_pos_right v.isLt (Nat.two_pow_pos lo)
      _ = 2 ^ (n + lo) := (Nat.pow_add ..).symm
      _ ≤ _ := Nat.pow_le_pow_right (by decide) (by omega)
  have hv' : v.toNat < 2 ^ 64 :=
    Nat.lt_of_lt_of_le v.isLt (Nat.pow_le_pow_right (by decide) (by omega))
  rw [place, BitVec.toNat_shiftLeft, BitVec.toNat_setWidth, Nat.shiftLeft_eq, Nat.mod_eq_of_lt hv',
    Nat.mod_eq_of_lt hv]

theorem encodeN_toNat (op : Byte) : (encodeN op).toNat = op.toNat * 2 ^ 56 :=
  place_toNat 56 op (by decide)

theorem encodeB_toNat (op imm8 : Byte) : (encodeB op imm8).toNat = op.toNat * 2 ^ 56 + imm8.toNat := by
  have := op.isLt
  have := imm8.isLt
  simp (disch := decide) only [encodeB, BitVec.toNat_add, place_toNat]
  omega

theorem encodeA_toNat (op : Byte) (imm24 : BitVec 24) :
    (encodeA op imm24).toNat = op.toNat * 2 ^ 56 + imm24.toNat := by
  have := op.isLt
  have := imm24.isLt
  simp (disch := decide) only [encodeA, BitVec.toNat_add, place_toNat]
  omega

theorem encodeR_toNat (op : Byte) (off len : BitVec 16) :
    (encodeR op off len).toNat = op.toNat * 2 ^ 56 + off.toNat * 2 ^ 16 + len.toNat := by
  have := op.isLt
  have := off.isLt
  have := len.isLt
  simp (disch := decide) only [encodeR, BitVec.toNat_add, place_toNat]
  omega

theorem encodeF_toNat (op : Byte) (f : FieldSpec) (v : BitVec 32) :
    (encodeF op f v).toNat = op.toNat * 2 ^ 56 + f.byteIndex.toNat * 2 ^ 48 + f.bitLow.toNat * 2 ^ 40
      + f.bitHigh.toNat * 2 ^ 32 + v.toNat := by
  have := op.isLt
  have := f.byteIndex.isLt
  have := f.bitLow.isLt
  have := f.bitHigh.isLt
  have := v.isLt
  simp (disch := decide) only [encodeF, BitVec.toNat_add, place_toNat]
  omega

@[simp] theorem opField_encodeN (op : Byte) : opField (encodeN op) = op := by
  apply BitVec.eq_of_toNat_eq
  rw [opField_toNat, encodeN_toNat]
  omega

@[simp] theorem opField_encodeB (op imm8 : Byte) : opField (encodeB op imm8) = op := by
  apply BitVec.eq_of_toNat_eq
  rw [opField_toNat, encodeB_toNat]
  have := imm8.isLt
  omega

@[simp] theorem opField_encodeA (op : Byte) (imm24 : BitVec 24) : opField (encodeA op imm24) = op := by
  apply BitVec.eq_of_toNat_eq
  rw [opField_toNat, encodeA_toNat]
  have := imm24.isLt
  omega

@[simp] theorem opField_encodeR (op : Byte) (off len : BitVec 16) : opField (encodeR op off len) = op := by
  apply BitVec.eq_of_toNat_eq
  rw [opField_toNat, encodeR_toNat]
  have := off.isLt
  have := len.isLt
  omega

@[simp] theorem opField_encodeF (op : Byte) (f : FieldSpec) (v : BitVec 32) : opField (encodeF op f v) = op := by
  apply BitVec.eq_of_toNat_eq
  rw [opField_toNat, encodeF_toNat]
  have := f.byteIndex.isLt
  have := f.bitLow.isLt
  have := f.bitHigh.isLt
  have := v.isLt
  omega

@[simp] theorem imm8Field_encodeB (op imm8 : Byte) : imm8Field (encodeB op imm8) = imm8 := by
  apply BitVec.eq_of_toNat_eq
  rw [imm8Field_toNat, encodeB_toNat]
  have := imm8.isLt
  omega

@[simp] theorem imm24Field_encodeA (op : Byte) (imm24 : BitVec 24) : imm24Field (encodeA op imm24) = imm24 := by
  apply BitVec.eq_of_toNat_eq
  rw [imm24Field_toNat, encodeA_toNat]
  have := imm24.isLt
  omega

@[simp] theorem offField_encodeR (op : Byte) (off len : BitVec 16) : offField (encodeR op off len) = off := by
  apply BitVec.eq_of_toNat_eq
  rw [offField_toNat, encodeR_toNat]
  have := off.isLt
  have := len.isLt
  omega

@[simp] theorem lenField_encodeR (op : Byte) (off len : BitVec 16) : lenField (encodeR op off len) = len := by
  apply BitVec.eq_of_toNat_eq
  rw [lenField_toNat, encodeR_toNat]
  have := len.isLt
  omega

@[simp] theorem valueField_encodeF (op : Byte) (f : FieldSpec) (v : BitVec 32) :
    valueField (encodeF op f v) = v := by
  apply BitVec.eq_of_toNat_eq
  rw [valueField_toNat, encodeF_toNat]
  have := v.isLt
  omega

@[simp] theorem specField_encodeF (op : Byte) (f : FieldSpec) (v : BitVec 32) :
    specField (encodeF op f v) = f := by
  have := f.byteIndex.isLt
  have := f.bitLow.isLt
  have := f.bitHigh.isLt
  have := v.isLt
  obtain ⟨b, l, h⟩ := f
  have hb : (specField (encodeF op ⟨b, l, h⟩ v)).byteIndex = b := by
    apply BitVec.eq_of_toNat_eq
    rw [specField_byteIndex_toNat, encodeF_toNat]
    dsimp only at *
    omega
  have hl : (specField (encodeF op ⟨b, l, h⟩ v)).bitLow = l := by
    apply BitVec.eq_of_toNat_eq
    rw [specField_bitLow_toNat, encodeF_toNat]
    dsimp only at *
    omega
  have hh : (specField (encodeF op ⟨b, l, h⟩ v)).bitHigh = h := by
    apply BitVec.eq_of_toNat_eq
    rw [specField_bitHigh_toNat, encodeF_toNat]
    dsimp only at *
    omega
  exact FieldSpec.mk.injEq .. ▸ ⟨hb, hl, hh⟩

/-- What R69's checks come to for a word whose opcode has a row. -/
theorem decode_of_row (w : Word64) (format : Format) (i : Instr)
    (row : opcodeRow (opField w) w = some (format, i)) (reserved : w &&& reservedMask format = 0)
    (unpackV : opField w = 0x21 → valueField w = 0) (queryK : opField w = 0x32 → (imm8Field w).toNat ≤ 2) :
    decode w = .instr i := by
  unfold decode
  rw [row]
  dsimp only
  rw [if_neg (not_not.mpr reserved), if_neg (fun h => h.2 (unpackV h.1)),
    if_neg (fun h => Nat.not_lt.mpr (queryK h.1) h.2)]

theorem encodeN_reserved (op : Byte) : encodeN op &&& reservedMask .n = 0 := by
  rw [reservedN_clear_iff, encodeN_toNat]
  omega

theorem encodeB_reserved (op imm8 : Byte) : encodeB op imm8 &&& reservedMask .b = 0 := by
  rw [reservedB_clear_iff, encodeB_toNat]
  have := imm8.isLt
  omega

theorem encodeA_reserved (op : Byte) (imm24 : BitVec 24) : encodeA op imm24 &&& reservedMask .a = 0 := by
  rw [reservedA_clear_iff, encodeA_toNat]
  have := imm24.isLt
  omega

theorem encodeR_reserved (op : Byte) (off len : BitVec 16) : encodeR op off len &&& reservedMask .r = 0 := by
  rw [reservedR_clear_iff, encodeR_toNat]
  have := off.isLt
  have := len.isLt
  omega

end Sys2Proof
end

