-- ==== Sys2Proof/Laws/State.lean ====
section
/-! SUPPORT. One lemma per field per state update, so that no proof unfolds an update. -/

namespace Sys2Proof.Machine

variable (s : State)

@[simp] theorem complete_cfg : (complete s).cfg = s.cfg := rfl
@[simp] theorem complete_status : (complete s).status = statusCompleted := rfl
@[simp] theorem complete_fault : (complete s).fault = s.fault := rfl
@[simp] theorem complete_crc : (complete s).crc = s.crc := rfl
@[simp] theorem complete_res : (complete s).res = s.res := rfl
@[simp] theorem complete_addr : (complete s).addr = s.addr := rfl
@[simp] theorem complete_chunkBase : (complete s).chunkBase = s.chunkBase := rfl
@[simp] theorem complete_chunkLen : (complete s).chunkLen = s.chunkLen := rfl
@[simp] theorem complete_rxAddr : (complete s).rxAddr = s.rxAddr := rfl
@[simp] theorem complete_rxId : (complete s).rxId = s.rxId := rfl
@[simp] theorem complete_rxType : (complete s).rxType = s.rxType := rfl
@[simp] theorem complete_rxLen : (complete s).rxLen = s.rxLen := rfl
@[simp] theorem complete_rxBodyLen : (complete s).rxBodyLen = s.rxBodyLen := rfl
@[simp] theorem complete_acc : (complete s).acc = s.acc := rfl
@[simp] theorem complete_ibuf : (complete s).ibuf = s.ibuf := rfl
@[simp] theorem complete_pbuf : (complete s).pbuf = s.pbuf := rfl
@[simp] theorem complete_obuf : (complete s).obuf = s.obuf := rfl
@[simp] theorem complete_pending : (complete s).pending = s.pending := rfl

@[simp] theorem raise_cfg (e : ErrorKind) : (raise e s).cfg = s.cfg := rfl
@[simp] theorem raise_status (e : ErrorKind) : (raise e s).status = e.code := rfl
@[simp] theorem raise_fault (e : ErrorKind) : (raise e s).fault = stickyFault s.fault e.code := rfl
@[simp] theorem raise_crc (e : ErrorKind) : (raise e s).crc = s.crc := rfl
@[simp] theorem raise_res (e : ErrorKind) : (raise e s).res = s.res := rfl
@[simp] theorem raise_addr (e : ErrorKind) : (raise e s).addr = s.addr := rfl
@[simp] theorem raise_chunkBase (e : ErrorKind) : (raise e s).chunkBase = s.chunkBase := rfl
@[simp] theorem raise_chunkLen (e : ErrorKind) : (raise e s).chunkLen = s.chunkLen := rfl
@[simp] theorem raise_rxAddr (e : ErrorKind) : (raise e s).rxAddr = s.rxAddr := rfl
@[simp] theorem raise_rxId (e : ErrorKind) : (raise e s).rxId = s.rxId := rfl
@[simp] theorem raise_rxType (e : ErrorKind) : (raise e s).rxType = s.rxType := rfl
@[simp] theorem raise_rxLen (e : ErrorKind) : (raise e s).rxLen = s.rxLen := rfl
@[simp] theorem raise_rxBodyLen (e : ErrorKind) : (raise e s).rxBodyLen = s.rxBodyLen := rfl
@[simp] theorem raise_acc (e : ErrorKind) : (raise e s).acc = s.acc := rfl
@[simp] theorem raise_ibuf (e : ErrorKind) : (raise e s).ibuf = s.ibuf := rfl
@[simp] theorem raise_pbuf (e : ErrorKind) : (raise e s).pbuf = s.pbuf := rfl
@[simp] theorem raise_obuf (e : ErrorKind) : (raise e s).obuf = s.obuf := rfl
@[simp] theorem raise_pending (e : ErrorKind) : (raise e s).pending = s.pending := rfl

@[simp] theorem setCrc_cfg (c : BitVec 16) : (setCrc c s).cfg = s.cfg := rfl
@[simp] theorem setCrc_status (c : BitVec 16) : (setCrc c s).status = s.status := rfl
@[simp] theorem setCrc_fault (c : BitVec 16) : (setCrc c s).fault = s.fault := rfl
@[simp] theorem setCrc_crc (c : BitVec 16) : (setCrc c s).crc = c := rfl
@[simp] theorem setCrc_res (c : BitVec 16) : (setCrc c s).res = s.res := rfl
@[simp] theorem setCrc_addr (c : BitVec 16) : (setCrc c s).addr = s.addr := rfl
@[simp] theorem setCrc_chunkBase (c : BitVec 16) : (setCrc c s).chunkBase = s.chunkBase := rfl
@[simp] theorem setCrc_chunkLen (c : BitVec 16) : (setCrc c s).chunkLen = s.chunkLen := rfl
@[simp] theorem setCrc_rxAddr (c : BitVec 16) : (setCrc c s).rxAddr = s.rxAddr := rfl
@[simp] theorem setCrc_rxId (c : BitVec 16) : (setCrc c s).rxId = s.rxId := rfl
@[simp] theorem setCrc_rxType (c : BitVec 16) : (setCrc c s).rxType = s.rxType := rfl
@[simp] theorem setCrc_rxLen (c : BitVec 16) : (setCrc c s).rxLen = s.rxLen := rfl
@[simp] theorem setCrc_rxBodyLen (c : BitVec 16) : (setCrc c s).rxBodyLen = s.rxBodyLen := rfl
@[simp] theorem setCrc_acc (c : BitVec 16) : (setCrc c s).acc = s.acc := rfl
@[simp] theorem setCrc_ibuf (c : BitVec 16) : (setCrc c s).ibuf = s.ibuf := rfl
@[simp] theorem setCrc_pbuf (c : BitVec 16) : (setCrc c s).pbuf = s.pbuf := rfl
@[simp] theorem setCrc_obuf (c : BitVec 16) : (setCrc c s).obuf = s.obuf := rfl
@[simp] theorem setCrc_pending (c : BitVec 16) : (setCrc c s).pending = s.pending := rfl

@[simp] theorem setRes_cfg (v : BitVec 64) : (setRes v s).cfg = s.cfg := rfl
@[simp] theorem setRes_status (v : BitVec 64) : (setRes v s).status = s.status := rfl
@[simp] theorem setRes_fault (v : BitVec 64) : (setRes v s).fault = s.fault := rfl
@[simp] theorem setRes_crc (v : BitVec 64) : (setRes v s).crc = s.crc := rfl
@[simp] theorem setRes_res (v : BitVec 64) : (setRes v s).res = v := rfl
@[simp] theorem setRes_addr (v : BitVec 64) : (setRes v s).addr = s.addr := rfl
@[simp] theorem setRes_chunkBase (v : BitVec 64) : (setRes v s).chunkBase = s.chunkBase := rfl
@[simp] theorem setRes_chunkLen (v : BitVec 64) : (setRes v s).chunkLen = s.chunkLen := rfl
@[simp] theorem setRes_rxAddr (v : BitVec 64) : (setRes v s).rxAddr = s.rxAddr := rfl
@[simp] theorem setRes_rxId (v : BitVec 64) : (setRes v s).rxId = s.rxId := rfl
@[simp] theorem setRes_rxType (v : BitVec 64) : (setRes v s).rxType = s.rxType := rfl
@[simp] theorem setRes_rxLen (v : BitVec 64) : (setRes v s).rxLen = s.rxLen := rfl
@[simp] theorem setRes_rxBodyLen (v : BitVec 64) : (setRes v s).rxBodyLen = s.rxBodyLen := rfl
@[simp] theorem setRes_acc (v : BitVec 64) : (setRes v s).acc = s.acc := rfl
@[simp] theorem setRes_ibuf (v : BitVec 64) : (setRes v s).ibuf = s.ibuf := rfl
@[simp] theorem setRes_pbuf (v : BitVec 64) : (setRes v s).pbuf = s.pbuf := rfl
@[simp] theorem setRes_obuf (v : BitVec 64) : (setRes v s).obuf = s.obuf := rfl
@[simp] theorem setRes_pending (v : BitVec 64) : (setRes v s).pending = s.pending := rfl

@[simp] theorem setAddr_cfg (a : BitVec 24) : (setAddr a s).cfg = s.cfg := rfl
@[simp] theorem setAddr_status (a : BitVec 24) : (setAddr a s).status = s.status := rfl
@[simp] theorem setAddr_fault (a : BitVec 24) : (setAddr a s).fault = s.fault := rfl
@[simp] theorem setAddr_crc (a : BitVec 24) : (setAddr a s).crc = s.crc := rfl
@[simp] theorem setAddr_res (a : BitVec 24) : (setAddr a s).res = s.res := rfl
@[simp] theorem setAddr_addr (a : BitVec 24) : (setAddr a s).addr = a := rfl
@[simp] theorem setAddr_chunkBase (a : BitVec 24) : (setAddr a s).chunkBase = s.chunkBase := rfl
@[simp] theorem setAddr_chunkLen (a : BitVec 24) : (setAddr a s).chunkLen = s.chunkLen := rfl
@[simp] theorem setAddr_rxAddr (a : BitVec 24) : (setAddr a s).rxAddr = s.rxAddr := rfl
@[simp] theorem setAddr_rxId (a : BitVec 24) : (setAddr a s).rxId = s.rxId := rfl
@[simp] theorem setAddr_rxType (a : BitVec 24) : (setAddr a s).rxType = s.rxType := rfl
@[simp] theorem setAddr_rxLen (a : BitVec 24) : (setAddr a s).rxLen = s.rxLen := rfl
@[simp] theorem setAddr_rxBodyLen (a : BitVec 24) : (setAddr a s).rxBodyLen = s.rxBodyLen := rfl
@[simp] theorem setAddr_acc (a : BitVec 24) : (setAddr a s).acc = s.acc := rfl
@[simp] theorem setAddr_ibuf (a : BitVec 24) : (setAddr a s).ibuf = s.ibuf := rfl
@[simp] theorem setAddr_pbuf (a : BitVec 24) : (setAddr a s).pbuf = s.pbuf := rfl
@[simp] theorem setAddr_obuf (a : BitVec 24) : (setAddr a s).obuf = s.obuf := rfl
@[simp] theorem setAddr_pending (a : BitVec 24) : (setAddr a s).pending = s.pending := rfl

@[simp] theorem setIbuf_cfg (b : List Byte) : (setIbuf b s).cfg = s.cfg := rfl
@[simp] theorem setIbuf_status (b : List Byte) : (setIbuf b s).status = s.status := rfl
@[simp] theorem setIbuf_fault (b : List Byte) : (setIbuf b s).fault = s.fault := rfl
@[simp] theorem setIbuf_crc (b : List Byte) : (setIbuf b s).crc = s.crc := rfl
@[simp] theorem setIbuf_res (b : List Byte) : (setIbuf b s).res = s.res := rfl
@[simp] theorem setIbuf_addr (b : List Byte) : (setIbuf b s).addr = s.addr := rfl
@[simp] theorem setIbuf_chunkBase (b : List Byte) : (setIbuf b s).chunkBase = s.chunkBase := rfl
@[simp] theorem setIbuf_chunkLen (b : List Byte) : (setIbuf b s).chunkLen = s.chunkLen := rfl
@[simp] theorem setIbuf_rxAddr (b : List Byte) : (setIbuf b s).rxAddr = s.rxAddr := rfl
@[simp] theorem setIbuf_rxId (b : List Byte) : (setIbuf b s).rxId = s.rxId := rfl
@[simp] theorem setIbuf_rxType (b : List Byte) : (setIbuf b s).rxType = s.rxType := rfl
@[simp] theorem setIbuf_rxLen (b : List Byte) : (setIbuf b s).rxLen = s.rxLen := rfl
@[simp] theorem setIbuf_rxBodyLen (b : List Byte) : (setIbuf b s).rxBodyLen = s.rxBodyLen := rfl
@[simp] theorem setIbuf_acc (b : List Byte) : (setIbuf b s).acc = s.acc := rfl
@[simp] theorem setIbuf_ibuf (b : List Byte) : (setIbuf b s).ibuf = b := rfl
@[simp] theorem setIbuf_pbuf (b : List Byte) : (setIbuf b s).pbuf = s.pbuf := rfl
@[simp] theorem setIbuf_obuf (b : List Byte) : (setIbuf b s).obuf = s.obuf := rfl
@[simp] theorem setIbuf_pending (b : List Byte) : (setIbuf b s).pending = s.pending := rfl

@[simp] theorem setPbuf_cfg (b : List Byte) : (setPbuf b s).cfg = s.cfg := rfl
@[simp] theorem setPbuf_status (b : List Byte) : (setPbuf b s).status = s.status := rfl
@[simp] theorem setPbuf_fault (b : List Byte) : (setPbuf b s).fault = s.fault := rfl
@[simp] theorem setPbuf_crc (b : List Byte) : (setPbuf b s).crc = s.crc := rfl
@[simp] theorem setPbuf_res (b : List Byte) : (setPbuf b s).res = s.res := rfl
@[simp] theorem setPbuf_addr (b : List Byte) : (setPbuf b s).addr = s.addr := rfl
@[simp] theorem setPbuf_chunkBase (b : List Byte) : (setPbuf b s).chunkBase = s.chunkBase := rfl
@[simp] theorem setPbuf_chunkLen (b : List Byte) : (setPbuf b s).chunkLen = s.chunkLen := rfl
@[simp] theorem setPbuf_rxAddr (b : List Byte) : (setPbuf b s).rxAddr = s.rxAddr := rfl
@[simp] theorem setPbuf_rxId (b : List Byte) : (setPbuf b s).rxId = s.rxId := rfl
@[simp] theorem setPbuf_rxType (b : List Byte) : (setPbuf b s).rxType = s.rxType := rfl
@[simp] theorem setPbuf_rxLen (b : List Byte) : (setPbuf b s).rxLen = s.rxLen := rfl
@[simp] theorem setPbuf_rxBodyLen (b : List Byte) : (setPbuf b s).rxBodyLen = s.rxBodyLen := rfl
@[simp] theorem setPbuf_acc (b : List Byte) : (setPbuf b s).acc = s.acc := rfl
@[simp] theorem setPbuf_ibuf (b : List Byte) : (setPbuf b s).ibuf = s.ibuf := rfl
@[simp] theorem setPbuf_pbuf (b : List Byte) : (setPbuf b s).pbuf = b := rfl
@[simp] theorem setPbuf_obuf (b : List Byte) : (setPbuf b s).obuf = s.obuf := rfl
@[simp] theorem setPbuf_pending (b : List Byte) : (setPbuf b s).pending = s.pending := rfl

@[simp] theorem setObuf_cfg (b : List Byte) : (setObuf b s).cfg = s.cfg := rfl
@[simp] theorem setObuf_status (b : List Byte) : (setObuf b s).status = s.status := rfl
@[simp] theorem setObuf_fault (b : List Byte) : (setObuf b s).fault = s.fault := rfl
@[simp] theorem setObuf_crc (b : List Byte) : (setObuf b s).crc = s.crc := rfl
@[simp] theorem setObuf_res (b : List Byte) : (setObuf b s).res = s.res := rfl
@[simp] theorem setObuf_addr (b : List Byte) : (setObuf b s).addr = s.addr := rfl
@[simp] theorem setObuf_chunkBase (b : List Byte) : (setObuf b s).chunkBase = s.chunkBase := rfl
@[simp] theorem setObuf_chunkLen (b : List Byte) : (setObuf b s).chunkLen = s.chunkLen := rfl
@[simp] theorem setObuf_rxAddr (b : List Byte) : (setObuf b s).rxAddr = s.rxAddr := rfl
@[simp] theorem setObuf_rxId (b : List Byte) : (setObuf b s).rxId = s.rxId := rfl
@[simp] theorem setObuf_rxType (b : List Byte) : (setObuf b s).rxType = s.rxType := rfl
@[simp] theorem setObuf_rxLen (b : List Byte) : (setObuf b s).rxLen = s.rxLen := rfl
@[simp] theorem setObuf_rxBodyLen (b : List Byte) : (setObuf b s).rxBodyLen = s.rxBodyLen := rfl
@[simp] theorem setObuf_acc (b : List Byte) : (setObuf b s).acc = s.acc := rfl
@[simp] theorem setObuf_ibuf (b : List Byte) : (setObuf b s).ibuf = s.ibuf := rfl
@[simp] theorem setObuf_pbuf (b : List Byte) : (setObuf b s).pbuf = s.pbuf := rfl
@[simp] theorem setObuf_obuf (b : List Byte) : (setObuf b s).obuf = b := rfl
@[simp] theorem setObuf_pending (b : List Byte) : (setObuf b s).pending = s.pending := rfl

@[simp] theorem setAcc_cfg (b : List Bool) : (setAcc b s).cfg = s.cfg := rfl
@[simp] theorem setAcc_status (b : List Bool) : (setAcc b s).status = s.status := rfl
@[simp] theorem setAcc_fault (b : List Bool) : (setAcc b s).fault = s.fault := rfl
@[simp] theorem setAcc_crc (b : List Bool) : (setAcc b s).crc = s.crc := rfl
@[simp] theorem setAcc_res (b : List Bool) : (setAcc b s).res = s.res := rfl
@[simp] theorem setAcc_addr (b : List Bool) : (setAcc b s).addr = s.addr := rfl
@[simp] theorem setAcc_chunkBase (b : List Bool) : (setAcc b s).chunkBase = s.chunkBase := rfl
@[simp] theorem setAcc_chunkLen (b : List Bool) : (setAcc b s).chunkLen = s.chunkLen := rfl
@[simp] theorem setAcc_rxAddr (b : List Bool) : (setAcc b s).rxAddr = s.rxAddr := rfl
@[simp] theorem setAcc_rxId (b : List Bool) : (setAcc b s).rxId = s.rxId := rfl
@[simp] theorem setAcc_rxType (b : List Bool) : (setAcc b s).rxType = s.rxType := rfl
@[simp] theorem setAcc_rxLen (b : List Bool) : (setAcc b s).rxLen = s.rxLen := rfl
@[simp] theorem setAcc_rxBodyLen (b : List Bool) : (setAcc b s).rxBodyLen = s.rxBodyLen := rfl
@[simp] theorem setAcc_acc (b : List Bool) : (setAcc b s).acc = b := rfl
@[simp] theorem setAcc_ibuf (b : List Bool) : (setAcc b s).ibuf = s.ibuf := rfl
@[simp] theorem setAcc_pbuf (b : List Bool) : (setAcc b s).pbuf = s.pbuf := rfl
@[simp] theorem setAcc_obuf (b : List Bool) : (setAcc b s).obuf = s.obuf := rfl
@[simp] theorem setAcc_pending (b : List Bool) : (setAcc b s).pending = s.pending := rfl

@[simp] theorem setChunk_cfg (o l : BitVec 16) : (setChunk o l s).cfg = s.cfg := rfl
@[simp] theorem setChunk_status (o l : BitVec 16) : (setChunk o l s).status = s.status := rfl
@[simp] theorem setChunk_fault (o l : BitVec 16) : (setChunk o l s).fault = s.fault := rfl
@[simp] theorem setChunk_crc (o l : BitVec 16) : (setChunk o l s).crc = s.crc := rfl
@[simp] theorem setChunk_res (o l : BitVec 16) : (setChunk o l s).res = s.res := rfl
@[simp] theorem setChunk_addr (o l : BitVec 16) : (setChunk o l s).addr = s.addr := rfl
@[simp] theorem setChunk_chunkBase (o l : BitVec 16) : (setChunk o l s).chunkBase = o := rfl
@[simp] theorem setChunk_chunkLen (o l : BitVec 16) : (setChunk o l s).chunkLen = l := rfl
@[simp] theorem setChunk_rxAddr (o l : BitVec 16) : (setChunk o l s).rxAddr = s.rxAddr := rfl
@[simp] theorem setChunk_rxId (o l : BitVec 16) : (setChunk o l s).rxId = s.rxId := rfl
@[simp] theorem setChunk_rxType (o l : BitVec 16) : (setChunk o l s).rxType = s.rxType := rfl
@[simp] theorem setChunk_rxLen (o l : BitVec 16) : (setChunk o l s).rxLen = s.rxLen := rfl
@[simp] theorem setChunk_rxBodyLen (o l : BitVec 16) : (setChunk o l s).rxBodyLen = s.rxBodyLen := rfl
@[simp] theorem setChunk_acc (o l : BitVec 16) : (setChunk o l s).acc = s.acc := rfl
@[simp] theorem setChunk_ibuf (o l : BitVec 16) : (setChunk o l s).ibuf = s.ibuf := rfl
@[simp] theorem setChunk_pbuf (o l : BitVec 16) : (setChunk o l s).pbuf = s.pbuf := rfl
@[simp] theorem setChunk_obuf (o l : BitVec 16) : (setChunk o l s).obuf = s.obuf := rfl
@[simp] theorem setChunk_pending (o l : BitVec 16) : (setChunk o l s).pending = s.pending := rfl

@[simp] theorem setRx_cfg (a : BitVec 16) (i y : Byte) (l b : BitVec 16) : (setRx a i y l b s).cfg = s.cfg := rfl
@[simp] theorem setRx_status (a : BitVec 16) (i y : Byte) (l b : BitVec 16) : (setRx a i y l b s).status = s.status := rfl
@[simp] theorem setRx_fault (a : BitVec 16) (i y : Byte) (l b : BitVec 16) : (setRx a i y l b s).fault = s.fault := rfl
@[simp] theorem setRx_crc (a : BitVec 16) (i y : Byte) (l b : BitVec 16) : (setRx a i y l b s).crc = s.crc := rfl
@[simp] theorem setRx_res (a : BitVec 16) (i y : Byte) (l b : BitVec 16) : (setRx a i y l b s).res = s.res := rfl
@[simp] theorem setRx_addr (a : BitVec 16) (i y : Byte) (l b : BitVec 16) : (setRx a i y l b s).addr = s.addr := rfl
@[simp] theorem setRx_chunkBase (a : BitVec 16) (i y : Byte) (l b : BitVec 16) : (setRx a i y l b s).chunkBase = s.chunkBase := rfl
@[simp] theorem setRx_chunkLen (a : BitVec 16) (i y : Byte) (l b : BitVec 16) : (setRx a i y l b s).chunkLen = s.chunkLen := rfl
@[simp] theorem setRx_rxAddr (a : BitVec 16) (i y : Byte) (l b : BitVec 16) : (setRx a i y l b s).rxAddr = a := rfl
@[simp] theorem setRx_rxId (a : BitVec 16) (i y : Byte) (l b : BitVec 16) : (setRx a i y l b s).rxId = i := rfl
@[simp] theorem setRx_rxType (a : BitVec 16) (i y : Byte) (l b : BitVec 16) : (setRx a i y l b s).rxType = y := rfl
@[simp] theorem setRx_rxLen (a : BitVec 16) (i y : Byte) (l b : BitVec 16) : (setRx a i y l b s).rxLen = l := rfl
@[simp] theorem setRx_rxBodyLen (a : BitVec 16) (i y : Byte) (l b : BitVec 16) : (setRx a i y l b s).rxBodyLen = b := rfl
@[simp] theorem setRx_acc (a : BitVec 16) (i y : Byte) (l b : BitVec 16) : (setRx a i y l b s).acc = s.acc := rfl
@[simp] theorem setRx_ibuf (a : BitVec 16) (i y : Byte) (l b : BitVec 16) : (setRx a i y l b s).ibuf = s.ibuf := rfl
@[simp] theorem setRx_pbuf (a : BitVec 16) (i y : Byte) (l b : BitVec 16) : (setRx a i y l b s).pbuf = s.pbuf := rfl
@[simp] theorem setRx_obuf (a : BitVec 16) (i y : Byte) (l b : BitVec 16) : (setRx a i y l b s).obuf = s.obuf := rfl
@[simp] theorem setRx_pending (a : BitVec 16) (i y : Byte) (l b : BitVec 16) : (setRx a i y l b s).pending = s.pending := rfl

@[simp] theorem setFault_cfg (e : Byte) : (setFault e s).cfg = s.cfg := rfl
@[simp] theorem setFault_status (e : Byte) : (setFault e s).status = s.status := rfl
@[simp] theorem setFault_fault (e : Byte) : (setFault e s).fault = e := rfl
@[simp] theorem setFault_crc (e : Byte) : (setFault e s).crc = s.crc := rfl
@[simp] theorem setFault_res (e : Byte) : (setFault e s).res = s.res := rfl
@[simp] theorem setFault_addr (e : Byte) : (setFault e s).addr = s.addr := rfl
@[simp] theorem setFault_chunkBase (e : Byte) : (setFault e s).chunkBase = s.chunkBase := rfl
@[simp] theorem setFault_chunkLen (e : Byte) : (setFault e s).chunkLen = s.chunkLen := rfl
@[simp] theorem setFault_rxAddr (e : Byte) : (setFault e s).rxAddr = s.rxAddr := rfl
@[simp] theorem setFault_rxId (e : Byte) : (setFault e s).rxId = s.rxId := rfl
@[simp] theorem setFault_rxType (e : Byte) : (setFault e s).rxType = s.rxType := rfl
@[simp] theorem setFault_rxLen (e : Byte) : (setFault e s).rxLen = s.rxLen := rfl
@[simp] theorem setFault_rxBodyLen (e : Byte) : (setFault e s).rxBodyLen = s.rxBodyLen := rfl
@[simp] theorem setFault_acc (e : Byte) : (setFault e s).acc = s.acc := rfl
@[simp] theorem setFault_ibuf (e : Byte) : (setFault e s).ibuf = s.ibuf := rfl
@[simp] theorem setFault_pbuf (e : Byte) : (setFault e s).pbuf = s.pbuf := rfl
@[simp] theorem setFault_obuf (e : Byte) : (setFault e s).obuf = s.obuf := rfl
@[simp] theorem setFault_pending (e : Byte) : (setFault e s).pending = s.pending := rfl

@[simp] theorem setPending_cfg (w : List Word64) : (setPending w s).cfg = s.cfg := rfl
@[simp] theorem setPending_status (w : List Word64) : (setPending w s).status = s.status := rfl
@[simp] theorem setPending_fault (w : List Word64) : (setPending w s).fault = s.fault := rfl
@[simp] theorem setPending_crc (w : List Word64) : (setPending w s).crc = s.crc := rfl
@[simp] theorem setPending_res (w : List Word64) : (setPending w s).res = s.res := rfl
@[simp] theorem setPending_addr (w : List Word64) : (setPending w s).addr = s.addr := rfl
@[simp] theorem setPending_chunkBase (w : List Word64) : (setPending w s).chunkBase = s.chunkBase := rfl
@[simp] theorem setPending_chunkLen (w : List Word64) : (setPending w s).chunkLen = s.chunkLen := rfl
@[simp] theorem setPending_rxAddr (w : List Word64) : (setPending w s).rxAddr = s.rxAddr := rfl
@[simp] theorem setPending_rxId (w : List Word64) : (setPending w s).rxId = s.rxId := rfl
@[simp] theorem setPending_rxType (w : List Word64) : (setPending w s).rxType = s.rxType := rfl
@[simp] theorem setPending_rxLen (w : List Word64) : (setPending w s).rxLen = s.rxLen := rfl
@[simp] theorem setPending_rxBodyLen (w : List Word64) : (setPending w s).rxBodyLen = s.rxBodyLen := rfl
@[simp] theorem setPending_acc (w : List Word64) : (setPending w s).acc = s.acc := rfl
@[simp] theorem setPending_ibuf (w : List Word64) : (setPending w s).ibuf = s.ibuf := rfl
@[simp] theorem setPending_pbuf (w : List Word64) : (setPending w s).pbuf = s.pbuf := rfl
@[simp] theorem setPending_obuf (w : List Word64) : (setPending w s).obuf = s.obuf := rfl
@[simp] theorem setPending_pending (w : List Word64) : (setPending w s).pending = w := rfl

@[simp] theorem resetWith_cfg (c : Config) : (State.resetWith c).cfg = c := rfl
@[simp] theorem resetWith_status (c : Config) : (State.resetWith c).status = 0x00 := rfl
@[simp] theorem resetWith_fault (c : Config) : (State.resetWith c).fault = 0x00 := rfl
@[simp] theorem resetWith_crc (c : Config) : (State.resetWith c).crc = 0xFFFF := rfl
@[simp] theorem resetWith_res (c : Config) : (State.resetWith c).res = 0 := rfl
@[simp] theorem resetWith_addr (c : Config) : (State.resetWith c).addr = c.resetAddr := rfl
@[simp] theorem resetWith_chunkBase (c : Config) : (State.resetWith c).chunkBase = 0 := rfl
@[simp] theorem resetWith_chunkLen (c : Config) : (State.resetWith c).chunkLen = 0 := rfl
@[simp] theorem resetWith_rxAddr (c : Config) : (State.resetWith c).rxAddr = 0 := rfl
@[simp] theorem resetWith_rxId (c : Config) : (State.resetWith c).rxId = 0 := rfl
@[simp] theorem resetWith_rxType (c : Config) : (State.resetWith c).rxType = 0 := rfl
@[simp] theorem resetWith_rxLen (c : Config) : (State.resetWith c).rxLen = 0 := rfl
@[simp] theorem resetWith_rxBodyLen (c : Config) : (State.resetWith c).rxBodyLen = 0 := rfl
@[simp] theorem resetWith_acc (c : Config) : (State.resetWith c).acc = [] := rfl
@[simp] theorem resetWith_ibuf (c : Config) : (State.resetWith c).ibuf = [] := rfl
@[simp] theorem resetWith_pbuf (c : Config) : (State.resetWith c).pbuf = [] := rfl
@[simp] theorem resetWith_obuf (c : Config) : (State.resetWith c).obuf = [] := rfl
@[simp] theorem resetWith_pending (c : Config) : (State.resetWith c).pending = [] := rfl

end Sys2Proof.Machine
end

