-- ==== Sys2Proof/Laws/Ops.lean ====
section
/-! SUPPORT. What each shared operation does, once. -/

namespace Sys2Proof

@[simp] theorem be16_length (v : BitVec 16) : (be16 v).length = 2 := rfl

@[simp] theorem be24_length (v : BitVec 24) : (be24 v).length = 3 := rfl

theorem ofBe16_toNat (hi lo : Byte) : (ofBe16 hi lo).toNat = 256 * hi.toNat + lo.toNat := by
  rw [ofBe16, BitVec.toNat_append, Nat.shiftLeft_eq, Nat.mul_comm, ← Nat.two_pow_add_eq_or_of_lt lo.isLt]

theorem byteRange_length (bytes : List Byte) (off len : Nat) (h : off + len ≤ bytes.length) :
    (byteRange bytes off len).length = len := by
  simp [byteRange]
  omega

theorem byteAt_byteRange (bytes : List Byte) (off len i : Nat) (hi : i < len) :
    byteAt (byteRange bytes off len) i = byteAt bytes (off + i) := by
  simp [byteAt, byteRange, List.getD_eq_getElem?_getD, List.getElem?_take_of_lt hi]

@[simp] theorem lowBits_length (n : Nat) (v : BitVec 32) : (lowBits n v).length = n := by simp [lowBits]

theorem lowBits_getElem? (n k : Nat) (v : BitVec 32) (h : k < n) :
    (lowBits n v)[k]? = some (v.getLsbD (n - 1 - k)) := by simp [lowBits, h]

theorem foldl_bits_lt (bits : List Bool) (a : Nat) :
    bits.foldl (fun v b => 2 * v + b.toNat) a < (a + 1) * 2 ^ bits.length := by
  induction bits generalizing a with
  | nil => simp
  | cons b bits ih =>
    have := ih (2 * a + b.toNat)
    have hb : b.toNat ≤ 1 := Bool.toNat_le b
    calc _ < (2 * a + b.toNat + 1) * 2 ^ bits.length := this
      _ ≤ (2 * (a + 1)) * 2 ^ bits.length := Nat.mul_le_mul_right _ (by omega)
      _ = _ := by rw [List.length_cons, pow_succ]; ring

theorem natOfBits_lt (bits : List Bool) : natOfBits bits < 2 ^ bits.length := by
  simpa [natOfBits] using foldl_bits_lt bits 0

theorem natOfBits_append_singleton (bits : List Bool) (b : Bool) :
    natOfBits (bits ++ [b]) = 2 * natOfBits bits + b.toNat := by simp [natOfBits]

theorem valid_iff (f : FieldSpec) :
    f.valid = true ↔ 1 ≤ f.byteIndex.toNat ∧ 1 ≤ f.bitLow.toNat ∧ f.bitLow.toNat ≤ f.bitHigh.toNat ∧
      f.bitHigh.toNat ≤ 16 := by simp [FieldSpec.valid]

theorem bits_le_sixteen (f : FieldSpec) (h : f.valid = true) : 1 ≤ f.bits ∧ f.bits ≤ 16 := by
  rw [valid_iff] at h
  unfold FieldSpec.bits
  omega

theorem value_lt (f : FieldSpec) (chunk : List Byte) : f.value chunk < 2 ^ f.bits :=
  Nat.mod_lt _ (Nat.two_pow_pos _)

theorem value_lt_sixteen_bits (f : FieldSpec) (chunk : List Byte) (h : f.valid = true) :
    f.value chunk < 2 ^ 16 :=
  Nat.lt_of_lt_of_le (value_lt f chunk) (Nat.pow_le_pow_right (by decide) (bits_le_sixteen f h).2)

@[simp] theorem crcBytes_nil (c : BitVec 16) : crcBytes c [] = c := rfl

@[simp] theorem crcBytes_cons (c : BitVec 16) (b : Byte) (bs : List Byte) :
    crcBytes c (b :: bs) = crcBytes (crcUpdate c b) bs := rfl

@[simp] theorem crcBytes_append (c : BitVec 16) (xs ys : List Byte) :
    crcBytes c (xs ++ ys) = crcBytes (crcBytes c xs) ys := by simp [crcBytes]

@[simp] theorem crcFinal_eq (c : BitVec 16) : crcFinal c = c := by simp [crcFinal]

theorem checksum_eq (bytes : List Byte) : checksum bytes = crcBytes 0xFFFF bytes := by
  simp [checksum, crcInit]

@[simp] theorem frameBody_length (addr : BitVec 24) (type : Byte) (payload : List Byte) :
    (frameBody addr type payload).length = payload.length + 6 := by
  simp [frameBody]
  omega

@[simp] theorem frameBytes_length (addr : BitVec 24) (type : Byte) (payload : List Byte) :
    (frameBytes addr type payload).length = payload.length + 10 := by
  simp [frameBytes, preamble]

theorem queryRom_zero (literal : Bool) :
    queryRom literal 0 = some [0x55, 0x55, 0x80, 0xb0, 0x01, 0x2b, 0x00, 0x00, 0xf5, 0x2f] := rfl

theorem queryRom_one (literal : Bool) :
    queryRom literal 1 = some [0x55, 0x55, 0x90, 0xb0, 0x01, 0x1f, 0x00, 0x02, 0xff, 0x12, 0x82, 0x0c] := rfl

theorem queryRom_two (literal : Bool) :
    queryRom literal 2 = some ([0x55, 0x55, 0x80, 0xb0, 0x01, 0x2d, 0x00, 0x00, 0xf4, 0xcf]
      ++ if literal then [0xe3, 0x52] else []) := rfl

/-- The ROM has the entries 0, 1 and 2 and no other. -/
theorem queryRom_eq_none_iff (literal : Bool) (k : Byte) : queryRom literal k = none ↔ 2 < k.toNat := by
  revert literal k
  decide +kernel

theorem queryRom_length_le (literal : Bool) (k : Byte) (bytes : List Byte) (h : queryRom literal k = some bytes) :
    bytes.length ≤ 12 := by
  have all : ∀ (literal : Bool) (k : Byte), ((queryRom literal k).getD []).length ≤ 12 := by decide +kernel
  simpa [h] using all literal k

namespace Machine

@[simp] theorem finish_eq (s : State) : finish s = .next (complete s) := rfl

@[simp] theorem fail_eq (e : ErrorKind) (s : State) : fail e s = .next (raise e s) := rfl

@[simp] theorem execIllegal_eq (why : Illegal) (s : State) :
    execIllegal why s = .next (raise .illegalCommand s) := rfl

theorem code_ne_zero (e : ErrorKind) : e.code ≠ 0x00 := by cases e <;> decide

theorem fetch_of_nil (s : State) (h : s.pending = []) : fetch s = none := by simp [fetch, h]

theorem fetch_of_cons (s : State) (w : Word64) (rest : List Word64) (h : s.pending = w :: rest) :
    fetch s = some (w, setPending rest s) := by simp [fetch, h]

@[simp] theorem ibufCovers_eq_true_iff (off len : BitVec 16) (s : State) :
    ibufCovers off len s = true ↔ off.toNat + len.toNat ≤ s.ibuf.length := by simp [ibufCovers]

@[simp] theorem ibufCovers_eq_false_iff (off len : BitVec 16) (s : State) :
    ibufCovers off len s = false ↔ s.ibuf.length < off.toNat + len.toNat := by simp [ibufCovers]

theorem packedAcc_length (f : FieldSpec) (v : BitVec 32) (acc : List Bool) :
    (packedAcc f v acc).length = max acc.length f.position + f.bits := by
  simp [packedAcc]
  omega

/-- PACK moves no bit that is already in ACC (43_bitfield.md R156). -/
theorem packedAcc_getElem?_old (f : FieldSpec) (v : BitVec 32) (acc : List Bool) (j : Nat) (h : j < acc.length) :
    (packedAcc f v acc)[j]? = acc[j]? := by
  rw [packedAcc, List.append_assoc, List.getElem?_append_left h]

/-- The field's bits stand from max ACC_LEN P upward (43_bitfield.md R155). -/
theorem packedAcc_getElem?_field (f : FieldSpec) (v : BitVec 32) (acc : List Bool) (k : Nat) (h : k < f.bits) :
    (packedAcc f v acc)[max acc.length f.position + k]? = some (v.getLsbD (f.bits - 1 - k)) := by
  have hl : (acc ++ List.replicate (f.position - acc.length) false).length = max acc.length f.position := by
    simp
    omega
  rw [packedAcc, List.getElem?_append_right (by omega), hl, Nat.add_sub_cancel_left, lowBits_getElem? _ _ _ h]

@[simp] theorem packedBytes_length (acc : List Bool) : (packedBytes acc).length = (acc.length + 7) / 8 := by
  simp [packedBytes]

end Machine

end Sys2Proof
end

