-- ==== Sys2Proof/Laws/Exec.lean ====
section
/-! SUPPORT. What executing a command can do, said once: it completes, or it raises an error in the state it started from. -/

namespace Sys2Proof.Machine

/-- r is a completion that keeps s's parameters and pending words, or an error raised in s. -/
def CompletesOrRaises (s : State) (r : Result) : Prop :=
  (∃ u, r = .next (complete u) ∧ u.cfg = s.cfg ∧ u.pending = s.pending) ∨ ∃ e, r = .next (raise e s)

theorem finish_completes (s u : State) (hc : u.cfg = s.cfg) (hp : u.pending = s.pending) :
    CompletesOrRaises s (finish u) := .inl ⟨u, rfl, hc, hp⟩

theorem fail_raises (e : ErrorKind) (s : State) : CompletesOrRaises s (fail e s) := .inr ⟨e, rfl⟩

theorem CompletesOrRaises.ite {p : Prop} [Decidable p] {s : State} {q r : Result} (hq : CompletesOrRaises s q)
    (hr : CompletesOrRaises s r) : CompletesOrRaises s (if p then q else r) := by
  split
  · exact hq
  · exact hr

theorem exec_completes_or_raises (i : Instr) (s : State) : CompletesOrRaises s (exec i s) := by
  have done (u : State) (hc : u.cfg = s.cfg) (hp : u.pending = s.pending) := finish_completes s u hc hp
  have error (e : ErrorKind) := fail_raises e s
  cases i with
  | ibput b => exact .ite (error _) (done _ rfl rfl)
  | pbput b => exact .ite (error _) (done _ rfl rfl)
  | crcib o l => exact .ite (done _ rfl rfl) (error _)
  | setchunk o l => exact .ite (done _ rfl rfl) (error _)
  | unpack f => exact .ite (error _) (.ite (error _) (.ite (error _) (done _ rfl rfl)))
  | pack f v => exact .ite (error _) (.ite (error _) (.ite (error _) (done _ rfl rfl)))
  | frame k => exact .ite (error _) (done _ rfl rfl)
  | unframe => exact .ite (error _) (done _ rfl rfl)
  | query k =>
    simp only [exec, execQuery]
    split
    · exact done _ rfl rfl
    · exact error _
  | _ => exact done _ rfl rfl

end Sys2Proof.Machine
end

