-- ==== Sys2Proof/Laws/Memory.lean ====
section
/-! SUPPORT. Every operation on the buffers keeps them within their capacities (Memory.wf), and reset leaves them so. -/

namespace Sys2Proof.Machine

theorem resetWith_memory_wf (c : Config) : Memory.wf (State.resetWith c) := by
  simp [Memory.wf]

theorem complete_memory_wf (s : State) (h : Memory.wf s) : Memory.wf (complete s) := h

theorem raise_memory_wf (e : ErrorKind) (s : State) (h : Memory.wf s) : Memory.wf (raise e s) := h

theorem clearIbuf_memory_wf (s : State) (h : Memory.wf s) : Memory.wf (setIbuf [] s) :=
  ⟨Nat.zero_le _, h.2⟩

theorem appendIbuf_memory_wf (b : Byte) (s : State) (h : Memory.wf s) (room : s.ibuf.length ≠ s.cfg.ibufSize) :
    Memory.wf (setIbuf (bufAppend s.ibuf b) s) := by
  obtain ⟨hi, hr⟩ := h
  refine ⟨?_, hr⟩
  simp [bufAppend]
  omega

theorem clearPbuf_memory_wf (s : State) (h : Memory.wf s) : Memory.wf (setPbuf [] s) :=
  ⟨h.1, Nat.zero_le _, h.2.2⟩

theorem appendPbuf_memory_wf (b : Byte) (s : State) (h : Memory.wf s) (room : s.pbuf.length ≠ s.cfg.pbufSize) :
    Memory.wf (setPbuf (bufAppend s.pbuf b) s) := by
  obtain ⟨hi, hp, hr⟩ := h
  refine ⟨hi, ?_, hr⟩
  simp [bufAppend]
  omega

theorem packedPbuf_memory_wf (s : State) (h : Memory.wf s) : Memory.wf (setPbuf (packedBytes s.acc) s) := by
  obtain ⟨hi, hp, ho, ha⟩ := h
  refine ⟨hi, ?_, ho, ha⟩
  simp only [setPbuf_pbuf, setPbuf_cfg, packedBytes_length]
  unfold Config.accMaxBits at ha
  omega

theorem clearAcc_memory_wf (s : State) (h : Memory.wf s) : Memory.wf (setAcc [] s) :=
  ⟨h.1, h.2.1, h.2.2.1, Nat.zero_le _⟩

theorem packedAcc_memory_wf (f : FieldSpec) (v : BitVec 32) (s : State) (h : Memory.wf s)
    (room : max s.acc.length f.position + f.bits ≤ s.cfg.accMaxBits) :
    Memory.wf (setAcc (packedAcc f v s.acc) s) :=
  ⟨h.1, h.2.1, h.2.2.1, by rw [setAcc_acc, packedAcc_length]; exact room⟩

theorem frameObuf_memory_wf (k : Byte) (s : State) (h : Memory.wf s) :
    Memory.wf (setObuf (frameBytes s.addr k s.pbuf) s) := by
  obtain ⟨hi, hp, ho, ha⟩ := h
  refine ⟨hi, hp, ?_, ha⟩
  simp only [setObuf_obuf, setObuf_cfg, frameBytes_length, Config.obufSize]
  omega

theorem romObuf_memory_wf (literal : Bool) (k : Byte) (bytes : List Byte) (s : State) (h : Memory.wf s)
    (hk : queryRom literal k = some bytes) : Memory.wf (setObuf bytes s) := by
  obtain ⟨hi, hp, ho, ha⟩ := h
  exact ⟨hi, hp, Nat.le_trans (queryRom_length_le literal k bytes hk) (Nat.le_max_right _ _), ha⟩

end Sys2Proof.Machine
end

