-- ==== Sys2Proof/Laws/PerInstr.lean ====
section
/-! SUPPORT. A property of every command's word: its opcode selects its row, no reserved bit is set, and the row reads its
operands back. -/

namespace Sys2Proof.Laws.EncodedRow

/-- The opcode map gives the command for its own word, in a format whose reserved bits the word leaves 0. -/
def Statement (i : Instr) : Prop :=
  ∃ format, opcodeRow (opField (encode i)) (encode i) = some (format, i) ∧ encode i &&& reservedMask format = 0

theorem nop : Statement .nop := ⟨.n, by simp [encode, opcodeRow], encodeN_reserved _⟩
theorem srst : Statement .srst := ⟨.n, by simp [encode, opcodeRow], encodeN_reserved _⟩
theorem errclr : Statement .errclr := ⟨.n, by simp [encode, opcodeRow], encodeN_reserved _⟩
theorem setaddr (a : BitVec 24) : Statement (.setaddr a) :=
  ⟨.a, by simp [encode, opcodeRow], encodeA_reserved _ _⟩
theorem ibclr : Statement .ibclr := ⟨.n, by simp [encode, opcodeRow], encodeN_reserved _⟩
theorem ibput (b : Byte) : Statement (.ibput b) := ⟨.b, by simp [encode, opcodeRow], encodeB_reserved _ _⟩
theorem pbclr : Statement .pbclr := ⟨.n, by simp [encode, opcodeRow], encodeN_reserved _⟩
theorem pbput (b : Byte) : Statement (.pbput b) := ⟨.b, by simp [encode, opcodeRow], encodeB_reserved _ _⟩
theorem crcinit : Statement .crcinit := ⟨.n, by simp [encode, opcodeRow], encodeN_reserved _⟩
theorem crcbyte (b : Byte) : Statement (.crcbyte b) := ⟨.b, by simp [encode, opcodeRow], encodeB_reserved _ _⟩
theorem crcib (o l : BitVec 16) : Statement (.crcib o l) :=
  ⟨.r, by simp [encode, opcodeRow], encodeR_reserved _ _ _⟩
theorem crcrd : Statement .crcrd := ⟨.n, by simp [encode, opcodeRow], encodeN_reserved _⟩
theorem setchunk (o l : BitVec 16) : Statement (.setchunk o l) :=
  ⟨.r, by simp [encode, opcodeRow], encodeR_reserved _ _ _⟩
theorem unpack (f : FieldSpec) : Statement (.unpack f) := ⟨.f, by simp [encode, opcodeRow], reservedF_clear _⟩
theorem pkclr : Statement .pkclr := ⟨.n, by simp [encode, opcodeRow], encodeN_reserved _⟩
theorem pack (f : FieldSpec) (v : BitVec 32) : Statement (.pack f v) :=
  ⟨.f, by simp [encode, opcodeRow], reservedF_clear _⟩
theorem pkfin : Statement .pkfin := ⟨.n, by simp [encode, opcodeRow], encodeN_reserved _⟩
theorem frame (b : Byte) : Statement (.frame b) := ⟨.b, by simp [encode, opcodeRow], encodeB_reserved _ _⟩
theorem unframe : Statement .unframe := ⟨.n, by simp [encode, opcodeRow], encodeN_reserved _⟩
theorem query (b : Byte) : Statement (.query b) := ⟨.b, by simp [encode, opcodeRow], encodeB_reserved _ _⟩

end Sys2Proof.Laws.EncodedRow
end

