-- ==== Sys2Proof/Laws/Step.lean ====
section
/-! SUPPORT. What one step is, for a state with no word issued and for one whose next word is w. -/

namespace Sys2Proof.Machine

theorem step_of_nil (s : State) (h : s.pending = []) : step s = .refused .noCommand := by
  rw [step, fetch_of_nil s h]

theorem step_of_cons (s : State) (w : Word64) (rest : List Word64) (h : s.pending = w :: rest) :
    step s = match decode w with
      | .instr i => exec i (setPending rest s)
      | .illegal _ => .next (raise .illegalCommand (setPending rest s)) := by
  rw [step, fetch_of_cons s w rest h]
  rfl

/-- A step that takes a word completes it or raises an error in the state from which the word has been taken. -/
theorem step_completes_or_raises (s : State) (w : Word64) (rest : List Word64) (h : s.pending = w :: rest) :
    CompletesOrRaises (setPending rest s) (step s) := by
  rw [step_of_cons s w rest h]
  cases decode w with
  | instr i => exact exec_completes_or_raises i _
  | illegal why => exact fail_raises _ _

end Sys2Proof.Machine
end

