-- ==== Sys2Proof/Laws/ReadPort.lean ====
section
/-! SUPPORT. What the host reads see: the state that every issued word leaves. -/

namespace Sys2Proof.Machine

/-- A step with a word issued answers a next state with the rest pending, the parameters unchanged. -/
theorem exists_step_of_cons (s : State) (w : Word64) (rest : List Word64) (h : s.pending = w :: rest) :
    ∃ t, step s = .next t ∧ t.pending = rest ∧ t.cfg = s.cfg := by
  obtain ⟨u, e, hc, hp⟩ | ⟨k, e⟩ := step_completes_or_raises s w rest h
  · exact ⟨complete u, e, hp, hc⟩
  · exact ⟨_, e, rfl, rfl⟩

theorem executed_succ_of_next (n : Nat) (s t : State) (h : step s = .next t) : executed (n + 1) s = executed n t := by
  rw [executed, h]

@[simp] theorem settled_of_nil (s : State) (h : s.pending = []) : settled s = s := by rw [settled, h]; rfl

/-- A step does not change what the issued words leave. -/
theorem settled_of_step (s t : State) (h : step s = .next t) : settled s = settled t := by
  cases hp : s.pending with
  | nil => rw [step_of_nil s hp] at h; cases h
  | cons w rest =>
    obtain ⟨u, e, hu, -⟩ := exists_step_of_cons s w rest hp
    obtain rfl : t = u := by rw [h] at e; cases e; rfl
    rw [settled, settled, hp, hu, List.length_cons, executed_succ_of_next _ _ _ h]

theorem run_succ_of_next (M : Host.Core) (k : Nat) (s t : M.State) (h : M.step s = .next t) :
    M.run (k + 1) s = M.run k t := by
  rw [Host.Core.run, h]

/-- Running the issued words reaches the settled state, and none is left. -/
theorem run_eq_settled (s : State) :
    Host.Core.run core s.pending.length s = .next (settled s) ∧ (settled s).pending = [] := by
  induction hp : s.pending generalizing s with
  | nil => rw [settled_of_nil s hp]; exact ⟨rfl, hp⟩
  | cons w rest ih =>
    obtain ⟨t, e, ht, -⟩ := exists_step_of_cons s w rest hp
    rw [settled_of_step s t e]
    obtain ⟨hr, hn⟩ := ih t ht
    rw [List.length_cons]
    exact ⟨(run_succ_of_next core _ s t e).trans hr, hn⟩

end Sys2Proof.Machine
end

