-- ==== Sys2Proof/Tests/Slice0.lean ====
section
/-! SUPPORT. Tests on words and vectors of spec/ (each names its source), and for every statement with hypotheses a witness
that meets them together. -/

namespace Sys2Proof.Tests

open Sys2Proof.Machine Sys2Proof.Rules

/-- The state a command ends in. -/
def nextOf : Result → Option State
  | .next s => some s
  | .fault _ => none
  | .refused _ => none

/-- The reset state with bytes in IBUF. -/
def withIbuf (bytes : List Byte) : State := setIbuf bytes State.reset

/-- The reset state with bytes in IBUF and the chunk window over all of them. -/
def withChunk (bytes : List Byte) : State := setChunk 0 (BitVec.ofNat 16 bytes.length) (withIbuf bytes)

/-- The reset state with FAULT and STATUS holding an error. -/
def faulted : State := { State.reset with status := 0x03, fault := 0x03 }

/-- A FieldSpec in the source's order. -/
def spec (b lo hi : Nat) : FieldSpec := ⟨BitVec.ofNat 8 b, BitVec.ofNat 8 lo, BitVec.ofNat 8 hi⟩

/-- STATUS after a word from a state. -/
def statusAfter (w : Word64) (s : State) : Option Byte := (nextOf (step (setPending [w] s))).map (·.status)

/-- ACC as text after the fields are packed from an empty ACC, with the payload PKFIN makes of it. -/
def packed (fields : List (FieldSpec × BitVec 32)) : Option (List Bool × List Byte) :=
  (nextOf (runAll (fields.map (fun x => Instr.pack x.1 x.2) ++ [.pkfin]) State.reset)).map fun t => (t.acc, t.pbuf)

/-! ## WellFormed and decoding -/

theorem test_wellFormed_refuses_query_3 : WellFormed (.query 3) = false := by decide

theorem test_wellFormed_allows_query_2 : WellFormed (.query 2) = true := by decide

/-! Words of 41_control.md R100-R107. -/

theorem test_decode_nop : decode 0x0000000000000000 = .instr .nop := by decide
theorem test_decode_srst : decode 0x0100000000000000 = .instr .srst := by decide
theorem test_decode_errclr : decode 0x0200000000000000 = .instr .errclr := by decide
theorem test_decode_setaddr : decode 0x030000000090B001 = .instr (.setaddr 0x90b001) := by decide
theorem test_decode_ibclr : decode 0x0400000000000000 = .instr .ibclr := by decide
theorem test_decode_ibput : decode 0x0500000000000055 = .instr (.ibput 0x55) := by decide
theorem test_decode_pbclr : decode 0x0600000000000000 = .instr .pbclr := by decide
theorem test_decode_pbput : decode 0x07000000000000FF = .instr (.pbput 0xff) := by decide

/-! Words of 42_checksum.md R125-R128 and 95_test_vectors.md section 4. -/

theorem test_decode_crcinit : decode 0x1000000000000000 = .instr .crcinit := by decide
theorem test_decode_crcbyte : decode 0x1100000000000080 = .instr (.crcbyte 0x80) := by decide
theorem test_decode_crcib : decode 0x12000000FFFF0002 = .instr (.crcib 0xffff 2) := by decide
theorem test_decode_crcrd : decode 0x1300000000000000 = .instr .crcrd := by decide

/-! Words of 43_bitfield.md R145-R160 and 95_test_vectors.md sections 5 and 9. -/

theorem test_decode_setchunk : decode 0x2000000000080006 = .instr (.setchunk 8 6) := by decide
theorem test_decode_unpack : decode 0x2101050C00000000 = .instr (.unpack (spec 1 5 12)) := by decide
theorem test_decode_pkclr : decode 0x2200000000000000 = .instr .pkclr := by decide
theorem test_decode_pack : decode 0x23FF010100000002 = .instr (.pack (spec 255 1 1) 2) := by decide
theorem test_decode_pkfin : decode 0x2400000000000000 = .instr .pkfin := by decide

/-! Words of 44_framer.md R180-R192. -/

theorem test_decode_frame : decode 0x300000000000002C = .instr (.frame 0x2c) := by decide
theorem test_decode_unframe : decode 0x3100000000000000 = .instr .unframe := by decide
theorem test_decode_query : decode 0x3200000000000001 = .instr (.query 1) := by decide

/-- 95_test_vectors.md V-ENC-3 to V-ENC-9. -/
theorem test_decode_illegal_words :
    [0x0000000000000001, 0xFF00000000000000, 0x0800000000000000, 0x2101010800000001, 0x3200000000000003,
      0x0300000001000000, 0x2000000100000000].map decode =
    [.illegal .reservedBits, .illegal .unassignedOpcode, .illegal .unassignedOpcode, .illegal .unpackValue,
      .illegal .queryEntry, .illegal .reservedBits, .illegal .reservedBits] := by decide

/-- R68: exactly 20 opcodes are assigned. -/
theorem test_twenty_opcodes :
    ((List.range 256).filter fun op => (opcodeRow (BitVec.ofNat 8 op) 0).isSome).length = 20 := by decide +kernel

theorem test_decodeTableWord : decodeTableWord 64 0x2301050800000004 = some (.pack (spec 1 5 8) 4) := by decide

theorem test_withFetchWord_runs_first :
    (nextOf (step (State.reset.withFetchWord 64 0x030000000090B001))).map (·.addr) = some 0x90B001 := by decide

theorem test_step_without_word : nextOf (step State.reset) = none := by decide

/-! ## Control family (95_test_vectors.md section 3, V-ENC-10) -/

theorem test_nop_keeps_fault : (nextOf (execNop faulted)).map (fun t => (t.status, t.fault)) = some (0x00, 0x03) := by
  decide

theorem test_srst_is_reset : nextOf (execSrst (setAddr 0x90B001 (withIbuf [0x01]))) = some State.reset := by decide

theorem test_srst_reserved_bit :
    (nextOf (step (setPending [0x0100000000000100] (setAddr 0x90B001 State.reset)))).map
      (fun t => (t.status, t.addr)) = some (0x10, 0x90B001) := by decide

theorem test_errclr : (nextOf (execErrclr faulted)).map (fun t => (t.status, t.fault)) = some (0x00, 0x00) := by decide

theorem test_illegal_keeps_first_fault :
    (nextOf (step (setPending [0xFF00000000000000] faulted))).map (fun t => (t.status, t.fault)) =
      some (0x10, 0x03) := by decide

theorem test_setaddr : (nextOf (execSetaddr 0x90b001 State.reset)).map (·.addr) = some 0x90B001 := by decide

theorem test_ibclr_keeps_window :
    (nextOf (execIbclr (withChunk [1, 2, 3, 4, 5, 6, 7]))).map (fun t => (t.ibuf, t.chunkBase, t.chunkLen)) =
      some ([], 0, 7) := by decide

theorem test_ibput : (nextOf (execIbput 0x55 State.reset)).map (·.ibuf) = some [0x55] := by decide

/-- V-CTL-9. -/
theorem test_ibput_full :
    (nextOf (execIbput 1 (withIbuf (List.replicate 512 0)))).map (fun t => (t.status, t.ibuf.length)) =
      some (0x11, 512) := by decide +kernel

theorem test_pbclr_keeps_acc :
    (nextOf (execPbclr (setPbuf [1, 2, 3, 4] (setAcc (List.replicate 8 true) State.reset)))).map
      (fun t => (t.pbuf, t.acc.length)) = some ([], 8) := by decide

/-- V-CTL-11. -/
theorem test_pbput_appends : (nextOf (execPbput 0x12 (setPbuf [0xff] State.reset))).map (·.pbuf) = some [0xff, 0x12] := by
  decide

/-- V-CTL-12. -/
theorem test_pbput_full :
    (nextOf (execPbput 1 (setPbuf (List.replicate 256 0) State.reset))).map (fun t => (t.status, t.pbuf.length)) =
      some (0x11, 256) := by decide +kernel

/-! ## Checksum family (95_test_vectors.md section 4) -/

/-- V-CRC-1 to V-CRC-10 and K-GK1. -/
theorem test_checksum_vectors :
    [[], [0x00], [0xff], [0x01], [0x80], [0x55], [0x80, 0xb0, 0x01, 0x2b, 0x00, 0x00],
      [0x90, 0xb0, 0x01, 0x1f, 0x00, 0x02, 0xff, 0x12], [0x80, 0xb0, 0x01, 0x2d, 0x00, 0x00],
      [0x80, 0xb0, 0x01, 0x2d, 0x00, 0x00, 0xf4, 0xcf],
      [0x31, 0x32, 0x33, 0x34, 0x35, 0x36, 0x37, 0x38, 0x39]].map checksum =
    [0xFFFF, 0x40BF, 0x00FF, 0x807E, 0xE0BE, 0x7F7F, 0xF52F, 0x820C, 0xF4CF, 0xE352, 0x4B37] := by decide +kernel

/-- The trace of crc_update(0xFFFF, 0x80). -/
theorem test_crc_trace :
    (List.range 8).map (fun k => Nat.repeat crcShift (k + 1) 0xFF7F) =
      [0xDFBE, 0x6FDF, 0x97EE, 0x4BF7, 0x85FA, 0x42FD, 0x817F, 0xE0BE] := by decide +kernel

theorem test_crcinit : (nextOf (execCrcinit (setCrc 0xF52F State.reset))).map (·.crc) = some 0xFFFF := by decide

theorem test_crcbyte : (nextOf (execCrcbyte 0x80 State.reset)).map (·.crc) = some 0xE0BE := by decide +kernel

/-- V-CRC-23. -/
theorem test_crcib :
    (nextOf (execCrcib 2 6 (withIbuf [0x55, 0x55, 0x80, 0xb0, 0x01, 0x2b, 0x00, 0x00]))).map (·.crc) =
      some 0xF52F := by decide +kernel

/-- V-CRC-24 to V-CRC-26. -/
theorem test_crcib_range :
    [(2, 6), (0xffff, 2), (7, 0)].map (fun x => (nextOf (execCrcib x.1 x.2
      (withIbuf [0x55, 0x55, 0x80, 0xb0, 0x01, 0x2b, 0x00]))).map fun t => (t.status, t.crc)) =
    [some (0x12, 0xFFFF), some (0x12, 0xFFFF), some (0x00, 0xFFFF)] := by decide +kernel

theorem test_crcrd : (nextOf (execCrcrd (setCrc 0x820C State.reset))).map (·.res) = some 0x820C := by decide

/-! ## Bit-field family (95_test_vectors.md sections 5 and 6) -/

/-- V-UNP-1 to V-UNP-12. -/
theorem test_unpack_values :
    [spec 1 1 8, spec 1 1 1, spec 1 8 8, spec 1 5 8, spec 1 1 4, spec 1 2 7, spec 1 9 16, spec 1 1 16,
      spec 1 5 12, spec 1 8 9, spec 1 16 16, spec 2 1 8].map
      (fun f => (nextOf (execUnpack f (withChunk [0xa5, 0x3c]))).map fun t => (t.status, t.res)) =
    [0xA5, 1, 1, 0xA, 5, 0x12, 0xA5, 0xA53C, 0x53, 2, 1, 0x3C].map (fun v => some (0x00, v)) := by decide +kernel

/-- V-UNP-13 to V-UNP-19. -/
theorem test_unpack_errors :
    [0x2102091000000000, 0x2103010100000000, 0x2100010800000000, 0x2101000800000000, 0x2101090800000000,
      0x2101011100000000, 0x2101111100000000].map (fun w => statusAfter w (withChunk [0xa5, 0x3c])) =
    [some 0x02, some 0x02, some 0x01, some 0x01, some 0x01, some 0x01, some 0x01] := by decide +kernel

/-- V-UNP-25 and V-UNP-26. -/
theorem test_setchunk :
    [(4, 4), (7, 0)].map (fun x => (nextOf (execSetchunk x.1 x.2 (withIbuf [1, 2, 3, 4, 5, 6, 7]))).map
      fun t => (t.status, t.chunkBase, t.chunkLen)) =
    [some (0x12, 0, 0), some (0x00, 7, 0)] := by decide +kernel

/-- V-UNP-22 and V-UNP-23: a stale window, and a malformed spec over it. -/
theorem test_unpack_stale_window :
    [spec 1 1 8, spec 0 1 8].map (fun f => (nextOf (execUnpack f (setIbuf [] (withChunk [1, 2, 3, 4, 5, 6, 7])))).map
      (·.status)) = [some 0x12, some 0x01] := by decide +kernel

theorem test_pkclr : (nextOf (execPkclr (setAcc (List.replicate 32 true) State.reset))).map (·.acc) = some [] := by decide

/-- V-PCK-4, V-PCK-5, V-PCK-8, V-PCK-24 and V-PCK-26: in order, out of order, across bytes, overlapping. -/
theorem test_pack_payloads :
    [[(spec 1 5 8, 0xA), (spec 1 1 4, 5)], [(spec 1 1 4, 5), (spec 1 5 8, 0xA)], [(spec 1 5 12, 0x53)],
      [(spec 1 1 16, 0xFFFF), (spec 1 1 1, 1)],
      [(spec 1 5 8, 4), (spec 1 1 4, 15), (spec 2 1 6, 63), (spec 3 1 8, 0)]].map
      (fun fields => (packed fields).map fun x => (x.1.length, x.2)) =
    [some (8, [0xa5]), some (12, [0x05, 0xa0]), some (12, [0x05, 0x30]), some (17, [0xff, 0xff, 0x80]),
      some (24, [0x4f, 0x3f, 0x00])] := by decide +kernel

/-- V-ERR-1 to V-ERR-3 and V-ERR-6: the priority of PACK's errors, and no padding left behind. -/
theorem test_pack_errors :
    (statusAfter 0x230109080000FFFF State.reset,
      statusAfter 0x23FF010100000002 (setAcc (List.replicate 2048 true) State.reset),
      statusAfter 0x23FF010100000001 (setAcc (List.replicate 2048 true) State.reset),
      (nextOf (execPack (spec 1 1 4) 16 (setAcc [false, true, false, false] State.reset))).map (·.acc)) =
    (some 0x01, some 0x03, some 0x11, some [false, true, false, false]) := by decide +kernel

/-- 43_bitfield.md R160's example. -/
theorem test_pkfin :
    (nextOf (execPkfin (setPbuf [7, 7] (setAcc [true, false, true, false] State.reset)))).map (·.pbuf) =
      some [0xa0] := by decide +kernel

/-! ## Framer family (95_test_vectors.md section 8) -/

/-- V-FRM-3. -/
theorem test_frame :
    (nextOf (execFrame 0x2c (setPbuf [0x12, 0x34] State.reset))).map (fun t => (t.obuf, t.crc)) =
      some ([0x55, 0x55, 0x80, 0xb0, 0x01, 0x2c, 0x00, 0x02, 0x12, 0x34, 0x00, 0xc5], 0x00C5) := by decide +kernel

/-- V-FRM-6. -/
theorem test_frame_fault_pending :
    (nextOf (execFrame 0x2c (setPbuf [1] faulted))).map (fun t => (t.status, t.fault, t.obuf, t.crc)) =
      some (0x13, 0x03, [], 0xFFFF) := by decide +kernel

/-- V-FRM-22 with the length field 00 0c of V-FRM-24: RX_LEN is not compared with the body (R188). -/
theorem test_unframe :
    (nextOf (execUnframe (withIbuf [0x55, 0x55, 0x80, 0xb0, 0x01, 0x2b, 0x00, 0x0c, 0xf5, 0x2f]))).map
      (fun t => (t.rxAddr, t.rxId, t.rxType, t.rxLen, t.rxBodyLen)) =
      some (0x80B0, 0x01, 0x2B, 0x000C, 2) := by decide +kernel

/-- V-FRM-20. -/
theorem test_unframe_too_short :
    (nextOf (execUnframe (withIbuf [0x55, 0x55, 0x80, 0xb0, 0x01, 0x2b, 0x00]))).map (fun t => (t.status, t.rxAddr)) =
      some (0x05, 0) := by decide +kernel

/-- V-FRM-9: QUERY is not blocked by FAULT. -/
theorem test_query_with_fault :
    (nextOf (execQuery 1 faulted)).map (fun t => (t.status, t.obuf, t.crc)) =
      some (0x00, [0x55, 0x55, 0x90, 0xb0, 0x01, 0x1f, 0x00, 0x02, 0xff, 0x12, 0x82, 0x0c], 0xFFFF) := by
  decide +kernel

/-- V-FRM-11. -/
theorem test_query_literal :
    (nextOf (execQuery 2 (State.resetWith { Config.default with acQueryLiteral := true }))).map (·.obuf) =
      some [0x55, 0x55, 0x80, 0xb0, 0x01, 0x2d, 0x00, 0x00, 0xf4, 0xcf, 0xe3, 0x52] := by decide +kernel

/-! ## The read port and the assembler -/

/-- R26, R27: a register number above 0x0F and an index at the length are refused. -/
theorem test_read_port :
    (readReg 0x04 State.reset, readReg 0x06 (withIbuf [9, 8]), readReg 0x10 State.reset, readIbuf 1 (withIbuf [9, 8]),
      readIbuf 2 (withIbuf [9, 8])) = (some 0x80B001, some 2, none, some 8, none) := by decide

/-- A read after CRCBYTE 0x80 is issued sees its result (20_memory.md R50, item 3; vector V-CRC-21), and one after it and
CRCRD sees both. -/
theorem test_read_sees_issued_words :
    (readReg 0x02 (issue 0x1100000000000080 State.reset),
      readReg 0x03 (issue 0x1300000000000000 (issue 0x1100000000000080 State.reset))) =
      (some 0xE0BE, some 0xE0BE) := by decide +kernel

/-- A read after IBPUT 0x55 is issued sees the byte (41_control.md R105, example). -/
theorem test_read_sees_issued_byte : readIbuf 0 (issue 0x0500000000000055 State.reset) = some 0x55 := by decide

/-- The examples of 30_encoding.md R71. -/
theorem test_assemble_examples :
    ["UNFRAME", "FRAME 0x2c", "SETADDR 0x90b001", "SETCHUNK 8, 6", "PACK 1, 5, 8, 4"].map Asm.assemble =
      [some [0x3100000000000000], some [0x300000000000002C], some [0x030000000090B001],
        some [0x2000000000080006], some [0x2301050800000004]] := by decide +kernel

/-- The expansion of IBLOAD in 30_encoding.md R72. -/
theorem test_assemble_ibload :
    Asm.assemble "IBLOAD 0x55, 18" = some [0x0400000000000000, 0x0500000000000055, 0x0500000000000012] := by
  decide +kernel

/-! ## Witnesses: for each statement with hypotheses, data that meet them together -/

/-- A word with a clear reserved field and one with a set one, both of opcode op and both issued. -/
def wordWitness (op : Byte) (reserved clear set : Word64) : Bool :=
  (setPending [clear] State.reset).pending == [clear] && (setPending [set] State.reset).pending == [set] &&
    clear.extractLsb 63 56 == op && set.extractLsb 63 56 == op && clear &&& reserved == 0 && set &&& reserved != 0

theorem test_witness_DecodeOfEncode : WellFormed (.query 2) = true ∧ WellFormed (.setaddr 0xFFFFFF) = true := by decide

theorem test_witness_EncodeOfDecode : decode 0x23FF1010FFFFFFFF = .instr (.pack (spec 255 16 16) 0xFFFFFFFF) := by decide

/-- The last unassigned and the last assigned opcode, and QUERY at its boundary. -/
theorem test_witness_IllegalCommandWords :
    ([0x3300000000000000, 0xFF00000000000000, 0x3200000000000003, 0x2100000000000001, 0x0300000001000000,
      0x1200000100000000, 0x0500000000000100, 0x0080000000000000].all fun w => decide (IllegalWord w)) = true ∧
    ([0x3200000000000002, 0x0300000000FFFFFF, 0x12000000FFFFFFFF, 0x2100000000000000, 0x23FFFFFFFFFFFFFF].all
      fun w => decide (¬ IllegalWord w)) = true := by decide +kernel

theorem test_witness_EveryWordCompletes :
    (setPending [1, 2] State.reset).pending = 1 :: [2] ∧ State.reset.pending = [] := by decide

theorem test_witness_StepRunsDecodedCommand :
    (setPending [0] State.reset).pending = 0 :: [] ∧ decode 0 = .instr .nop ∧ WellFormed (.query 0) = true := by decide

theorem test_witness_ControlWords :
    (wordWitness 0x00 0x00FFFFFFFFFFFFFF 0x0000000000000000 0x0080000000000000 &&
      wordWitness 0x01 0x00FFFFFFFFFFFFFF 0x0100000000000000 0x0100000000000001 &&
      wordWitness 0x03 0x00FFFFFFFF000000 0x0300000000FFFFFF 0x0300000001000000 &&
      wordWitness 0x05 0x00FFFFFFFFFFFF00 0x05000000000000FF 0x0500000000000100 &&
      wordWitness 0x07 0x00FFFFFFFFFFFF00 0x07000000000000FF 0x0780000000000000) = true := by decide

theorem test_witness_ClearingWords :
    (wordWitness 0x02 0x00FFFFFFFFFFFFFF 0x0200000000000000 0x0200000000000001 &&
      wordWitness 0x04 0x00FFFFFFFFFFFFFF 0x0400000000000000 0x0400000000000001 &&
      wordWitness 0x06 0x00FFFFFFFFFFFFFF 0x0600000000000000 0x0600000000000001) = true := by decide

theorem test_witness_ClearingWords_fault :
    ∃ t, exec .errclr faulted = .next t ∧ faulted.fault ≠ 0x00 ∧ t.fault = 0x00 := ⟨_, rfl, by decide, by decide⟩

theorem test_witness_ClearingWords_window :
    (spec 1 1 8).valid = true ∧ (setChunk 0 1 State.reset).ibuf = [] ∧
      0 < (setChunk 0 1 State.reset).chunkBase.toNat + (setChunk 0 1 State.reset).chunkLen.toNat := by decide

theorem test_witness_empty_payload : State.reset.pbuf = [] ∧ State.reset.fault = 0x00 := by decide

theorem test_witness_ChecksumWords :
    (wordWitness 0x10 0x00FFFFFFFFFFFFFF 0x1000000000000000 0x1000000000000001 &&
      wordWitness 0x11 0x00FFFFFFFFFFFF00 0x11000000000000FF 0x1100000000000100 &&
      wordWitness 0x13 0x00FFFFFFFFFFFFFF 0x1300000000000000 0x1380000000000000) = true := by decide

theorem test_witness_range_words :
    (wordWitness 0x12 0x00FFFFFF00000000 0x12000000FFFFFFFF 0x1200000100000000 &&
      wordWitness 0x20 0x00FFFFFF00000000 0x20000000FFFFFFFF 0x2000000100000000) = true := by decide

theorem test_witness_SetchunkWord_empty :
    (spec 1 1 1).valid = true ∧ (2 : BitVec 16).toNat ≤ (withIbuf [1, 2]).ibuf.length := by decide

theorem test_witness_UnpackWord :
    wordWitness 0x21 0x00000000FFFFFFFF 0x21FFFFFF00000000 0x2101010800000001 = true := by decide

/-- PACK reserves no bit, so its WordRule's first clause has no word and its second has every word of its opcode. -/
theorem test_witness_PackWord :
    (0x23FFFFFFFFFFFFFF : Word64).extractLsb 63 56 = (0x23 : Byte) ∧
      (0x23FFFFFFFFFFFFFF : Word64) &&& 0x0000000000000000 = 0 := by decide

theorem test_witness_PkclrPkfinWords :
    (wordWitness 0x22 0x00FFFFFFFFFFFFFF 0x2200000000000000 0x2200000000000001 &&
      wordWitness 0x24 0x00FFFFFFFFFFFFFF 0x2400000000000000 0x2400000000000001) = true := by decide

theorem test_witness_PkclrPkfinWords_full :
    ∃ t, exec .pkfin (setAcc (List.replicate 2048 true) State.reset) = .next t ∧
      (setAcc (List.replicate 2048 true) State.reset).acc.length ≤ State.reset.cfg.accMaxBits :=
  ⟨_, rfl, by decide +kernel⟩

theorem test_witness_framer_words :
    (wordWitness 0x30 0x00FFFFFFFFFFFF00 0x30000000000000FF 0x3000000000000100 &&
      wordWitness 0x31 0x00FFFFFFFFFFFFFF 0x3100000000000000 0x3100000000000001 &&
      wordWitness 0x32 0x00FFFFFFFFFFFF00 0x3200000000000002 0x3200000000000100) = true := by decide

/-- A buffer one short of full, and a full one. -/
theorem test_witness_BufferPutsComplete :
    (withIbuf (List.replicate 511 0)).ibuf.length ≠ State.reset.cfg.ibufSize ∧
      (withIbuf (List.replicate 512 0)).ibuf.length = State.reset.cfg.ibufSize ∧
      (setPbuf (List.replicate 255 0) State.reset).pbuf.length ≠ State.reset.cfg.pbufSize ∧
      (setPbuf (List.replicate 256 0) State.reset).pbuf.length = State.reset.cfg.pbufSize := by decide +kernel

/-- The last range inside IBUF, and the first outside. -/
theorem test_witness_ChecksumFoldsComplete :
    (1 : BitVec 16).toNat + (1 : BitVec 16).toNat ≤ (withIbuf [1, 2]).ibuf.length ∧
      (withIbuf [1, 2]).ibuf.length < (1 : BitVec 16).toNat + (2 : BitVec 16).toNat := by decide

/-- A 16-bit unit in a chunk of exactly 2 bytes. -/
theorem test_witness_SetchunkUnpackComplete :
    SpecValid (spec 1 9 16).byteIndex.toNat (spec 1 9 16).bitLow.toNat (spec 1 9 16).bitHigh.toNat ∧
      (withChunk [0xa5, 0x3c]).chunkBase.toNat + (withChunk [0xa5, 0x3c]).chunkLen.toNat
        ≤ (withChunk [0xa5, 0x3c]).ibuf.length ∧
      unitBytes (spec 1 9 16).byteIndex.toNat (spec 1 9 16).bitHigh.toNat
        ≤ (withChunk [0xa5, 0x3c]).chunkLen.toNat := by decide

/-- The largest field at the last position the default ACC holds. -/
theorem test_witness_PackPkfinComplete :
    SpecValid (spec 255 1 16).byteIndex.toNat (spec 255 1 16).bitLow.toNat (spec 255 1 16).bitHigh.toNat ∧
      (0xFFFF : BitVec 32).toNat < 2 ^ fieldBits (spec 255 1 16).bitLow.toNat (spec 255 1 16).bitHigh.toNat ∧
      max State.reset.acc.length (target (spec 255 1 16).byteIndex.toNat (spec 255 1 16).bitHigh.toNat) +
        fieldBits (spec 255 1 16).bitLow.toNat (spec 255 1 16).bitHigh.toNat ≤ State.reset.cfg.accMaxBits := by decide

theorem test_witness_FramerCommandsComplete :
    State.reset.fault = 0x00 ∧ 8 ≤ (withIbuf (List.replicate 8 0)).ibuf.length ∧ (2 : Byte).toNat ≤ 2 := by decide

theorem test_witness_ErrorsArePrecise :
    ∃ t, (setPending [0xFF00000000000000] faulted).pending = 0xFF00000000000000 :: [] ∧
      step (setPending [0xFF00000000000000] faulted) = .next t ∧ t.status ≠ 0x00 := ⟨_, rfl, rfl, by decide⟩

theorem test_witness_FaultIsSticky_first :
    ∃ t, step (setPending [0x3100000000000000] State.reset) = .next t ∧ t.status ≠ 0x00 ∧
      (setPending [0x3100000000000000] State.reset).fault = 0x00 :=
  ⟨_, rfl, by decide, by decide⟩

theorem test_witness_FaultIsSticky_keeps :
    ∃ t, (setPending [0xFF00000000000000] faulted).pending = [0xFF00000000000000] ∧
      step (setPending [0xFF00000000000000] faulted) = .next t ∧
      (setPending [0xFF00000000000000] faulted).fault ≠ 0x00 ∧
      decode 0xFF00000000000000 ≠ .instr .errclr ∧ decode 0xFF00000000000000 ≠ .instr .srst :=
  ⟨_, rfl, rfl, by decide, by decide, by decide⟩

theorem test_witness_FrameWord_capacity :
    (∃ t, exec (.frame 0x2c) State.reset = .next t) ∧ State.reset.pbuf.length ≤ State.reset.cfg.pbufSize ∧
      State.reset.obuf.length ≤ State.reset.cfg.obufSize := ⟨⟨_, rfl⟩, by decide, by decide⟩

theorem test_witness_FaultBlocksEveryLaterFrame :
    faulted.fault ≠ 0x00 ∧
      (∀ w ∈ [0xFF00000000000000], decode w ≠ .instr .errclr ∧ decode w ≠ .instr .srst) ∧
      (setPending ([0xFF00000000000000] ++ encode (.frame 0x2c) :: []) faulted).pending =
        [0xFF00000000000000] ++ encode (.frame 0x2c) :: [] :=
  ⟨by decide, fun w hw => by rw [List.mem_singleton.1 hw]; decide, rfl⟩

theorem test_witness_RegisterTable : ∃ t, exec (.setaddr 1) State.reset = .next t ∧ t.addr ≠ State.reset.addr :=
  ⟨_, rfl, by decide⟩

theorem test_witness_RaisedCodes : ∃ t, step (setPending [0x3100000000000000] State.reset) = .next t := ⟨_, rfl⟩

theorem test_witness_IdempotentCommands :
    ∃ t, Instr.pkfin ∈ [.nop, .srst, .errclr, .ibclr, .pbclr, .crcinit, .crcrd, .pkclr, .pkfin, .unframe] ∧
      exec .pkfin State.reset = .next t := ⟨_, by decide, rfl⟩

/-- The smallest and the largest legal parameters. -/
theorem test_witness_ResetHasInv :
    (Config.mk 8 1 0 false).Legal ∧ (Config.mk 65535 8191 0xFFFFFF true).Legal ∧ Config.default.Legal := by decide

theorem test_witness_StepKeepsInv : ∃ t, State.Inv (setPending [0] State.reset) ∧ step (setPending [0] State.reset) = .next t :=
  ⟨_, by decide, rfl⟩

theorem test_witness_inv_with_chunk : (withChunk [1, 2, 3]).Inv := by decide

theorem test_witness_inv_after_error : faulted.Inv := by decide

theorem test_witness_ReadPortAnswers_refusal : 0x0F < 0x10 := by decide

theorem test_witness_PseudoCommandsRun :
    (List.replicate 512 (0 : Byte)).length ≤ State.reset.cfg.ibufSize ∧
      (List.replicate 256 (0 : Byte)).length ≤ State.reset.cfg.pbufSize ∧
      (2 : BitVec 16).toNat + (6 : BitVec 16).toNat ≤ (withIbuf (List.replicate 8 0)).ibuf.length := by decide +kernel

theorem test_witness_UnpackIsSourceDecode :
    (spec 1 5 12).valid = true ∧
      (withChunk [0xa5, 0x3c]).chunkBase.toNat + (withChunk [0xa5, 0x3c]).chunkLen.toNat
        ≤ (withChunk [0xa5, 0x3c]).ibuf.length ∧
      (spec 1 5 12).need ≤ (withChunk [0xa5, 0x3c]).chunkLen.toNat := by decide

theorem test_witness_PackIsSourceEncode : (spec 1 8 9).valid = true := by decide

/-- The widest field at the first value that does not fit it (43_bitfield.md R157). -/
theorem test_witness_PackIsSourceEncode_spelling :
    1 ≤ 16 ∧ (Reference.shortestBinary 0xFFFF).length = 16 ∧ (Reference.shortestBinary 0x10000).length = 17 ∧
      (Reference.shortestBinary 0).length = 1 := by decide +kernel

/-- The field of 43_bitfield.md R161's example, copied with the one zero byte the unit needs. -/
theorem test_witness_PackUnpackRoundTrip :
    (spec 1 9 16).valid = true ∧ (0xA5 : BitVec 32).toNat < 2 ^ (16 - 9 + 1) ∧
      target (spec 1 9 16).byteIndex.toNat (spec 1 9 16).bitHigh.toNat +
        fieldBits (spec 1 9 16).bitLow.toNat (spec 1 9 16).bitHigh.toNat ≤ State.reset.cfg.accMaxBits ∧
      (withIbuf [0xa5, 0x00]).ibuf = [0xa5] ++ List.replicate 1 0x00 ∧
      (2 : BitVec 16).toNat = (withIbuf [0xa5, 0x00]).ibuf.length ∧
      unitBytes (spec 1 9 16).byteIndex.toNat (spec 1 9 16).bitHigh.toNat ≤ (2 : BitVec 16).toNat := by decide

/-- The payload that witness copies is the one PKFIN makes. -/
theorem test_witness_PackUnpackRoundTrip_payload :
    (packed [(spec 1 9 16, 0xA5)]).map (·.2) = some [0xa5] := by decide +kernel

/-- A list in order and one out of order, both with room. -/
theorem test_witness_PackOrder :
    (∀ x ∈ [(spec 1 5 8, (0xA : BitVec 32)), (spec 1 1 4, 5)],
      x.1.valid = true ∧ x.2.toNat < 2 ^ fieldBits x.1.bitLow.toNat x.1.bitHigh.toNat) ∧
    lengthAfter [(spec 1 5 8, 0xA), (spec 1 1 4, 5)] State.reset.acc.length ≤ State.reset.cfg.accMaxBits ∧
    lengthAfter [(spec 1 1 4, 5), (spec 1 5 8, 0xA)] State.reset.acc.length ≤ State.reset.cfg.accMaxBits := by decide

theorem test_witness_PackOrder_field : 0 < [(spec 1 5 8, (0xA : BitVec 32))].length ∧
    3 < fieldBits (spec 1 5 8).bitLow.toNat (spec 1 5 8).bitHigh.toNat := by decide

theorem test_witness_MixedWidthUnits :
    1 ≤ (spec 1 1 16).byteIndex.toNat ∧ 8 < (spec 1 1 16).bitHigh.toNat ∧
      (spec 2 1 8).byteIndex.toNat = (spec 1 1 16).byteIndex.toNat + 1 ∧ (spec 2 1 8).bitHigh.toNat ≤ 8 ∧
      (spec 1 1 8).byteIndex = (spec 1 1 16).byteIndex ∧ (spec 1 1 8).bitHigh.toNat ≤ 8 := by decide

theorem test_witness_MixedWidthUnits_unpack :
    (∃ t, exec (.unpack (spec 1 9 16)) (withChunk [0xa5, 0x3c]) = .next t ∧ t.status = 0x00) ∧
      (∃ u, exec (.unpack (spec 1 1 8)) (withChunk [0xa5, 0x3c]) = .next u) ∧ (spec 1 1 8).valid = true ∧
      (spec 1 9 16).bitLow.toNat = (spec 1 1 8).bitLow.toNat + 8 ∧
      (spec 1 9 16).bitHigh.toNat = (spec 1 1 8).bitHigh.toNat + 8 :=
  ⟨⟨_, rfl, by decide⟩, ⟨_, rfl⟩, by decide, by decide, by decide⟩

/-- The longest payload of the default PBUF. -/
theorem test_witness_FrameLayout :
    State.reset.fault = 0x00 ∧ (setPbuf (List.replicate 256 0) State.reset).pbuf.length < 2 ^ 16 := by decide +kernel

theorem test_witness_RomIsFramed :
    State.reset.fault = 0x00 ∧ State.reset.addr = 0x80B001 ∧ State.reset.pbuf = [] ∧
      State.reset.cfg.acQueryLiteral = false ∧
      (setAddr 0x90B001 (setPbuf [0xff, 0x12] State.reset)).addr = 0x90B001 ∧
      (setAddr 0x90B001 (setPbuf [0xff, 0x12] State.reset)).pbuf = [0xff, 0x12] ∧
      (setAddr 0x90B001 (setPbuf [0xff, 0x12] State.reset)).fault = 0x00 := by decide

theorem test_witness_UnframeOfFrame :
    State.reset.pbuf.length + 10 < 2 ^ 16 ∧ State.reset.fault = 0x00 ∧
      ∃ t, exec (.frame 0x2b) State.reset = .next t ∧ (setIbuf t.obuf State.reset).ibuf = t.obuf :=
  ⟨by decide, by decide, _, rfl, rfl⟩

/-- The shortest frame the verification takes, which FRAME built. -/
theorem test_witness_HostVerification :
    ∃ b, exec (.frame 0x2b) State.reset = .next b ∧ (withIbuf b.obuf).ibuf = b.obuf ∧
      (withIbuf b.obuf).ibuf.length = 10 ∧ State.reset.fault = 0x00 ∧ (withIbuf b.obuf).pending = [] :=
  ⟨_, rfl, rfl, by decide +kernel, by decide, rfl⟩

theorem test_witness_ObufCapacityFromTwo :
    ∃ t, Memory.wf State.reset ∧ State.reset.obuf.length ≤ State.reset.cfg.obufSize ∧
      2 ≤ State.reset.cfg.pbufSize ∧ exec (.query 1) State.reset = .next t :=
  ⟨_, by decide, by decide, by decide, rfl⟩

/-- The smallest legal PBUF: QUERY 1 completes there with a frame longer than OBUF_SIZE (log entry 4). -/
theorem test_witness_ObufCapacityAlways :
    (State.resetWith (Config.mk 8 1 0 false)).Inv ∧
      (nextOf (exec (.query 1) (State.resetWith (Config.mk 8 1 0 false)))).map
        (fun t => (t.obuf.length, t.cfg.obufSize)) = some (12, 11) := by decide

theorem test_witness_ReadsSeeIssuedCommands :
    ∃ t, step (setPending [0x1100000000000080] State.reset) = .next t := ⟨_, rfl⟩

end Sys2Proof.Tests
end

section
/-! PROOFS. What executing a command does, with the guards of its rule: the one inversion of exec that the invariants and
frames below are derived from. -/

namespace Sys2Proof.Machine

/-- Command i completes in s, and u is s with every write of the command's rule but STATUS <- 0 (10_state.md R12). A
premise of a constructor is what the command checked. -/
inductive CompletesIn (s : State) : Instr → State → Prop where
  | nop : CompletesIn s .nop s
  | srst : CompletesIn s .srst (setPending s.pending (State.resetWith s.cfg))
  | errclr : CompletesIn s .errclr (setFault 0x00 s)
  | setaddr (a : BitVec 24) : CompletesIn s (.setaddr a) (setAddr a s)
  | ibclr : CompletesIn s .ibclr (setIbuf [] s)
  | ibput (b : Byte) (room : s.ibuf.length ≠ s.cfg.ibufSize) :
      CompletesIn s (.ibput b) (setIbuf (bufAppend s.ibuf b) s)
  | pbclr : CompletesIn s .pbclr (setPbuf [] s)
  | pbput (b : Byte) (room : s.pbuf.length ≠ s.cfg.pbufSize) :
      CompletesIn s (.pbput b) (setPbuf (bufAppend s.pbuf b) s)
  | crcinit : CompletesIn s .crcinit (setCrc crcInit s)
  | crcbyte (b : Byte) : CompletesIn s (.crcbyte b) (setCrc (crcUpdate s.crc b) s)
  | crcib (off len : BitVec 16) (covered : off.toNat + len.toNat ≤ s.ibuf.length) :
      CompletesIn s (.crcib off len) (setCrc (crcBytes s.crc (byteRange s.ibuf off.toNat len.toNat)) s)
  | crcrd : CompletesIn s .crcrd (setRes ((crcFinal s.crc).setWidth 64) s)
  | setchunk (off len : BitVec 16) (covered : off.toNat + len.toNat ≤ s.ibuf.length) :
      CompletesIn s (.setchunk off len) (setChunk off len s)
  | unpack (f : FieldSpec) (valid : f.valid = true)
      (covered : s.chunkBase.toNat + s.chunkLen.toNat ≤ s.ibuf.length) (enough : f.need ≤ s.chunkLen.toNat) :
      CompletesIn s (.unpack f) (setRes (BitVec.ofNat 64 (f.value s.chunk)) s)
  | pkclr : CompletesIn s .pkclr (setAcc [] s)
  | pack (f : FieldSpec) (v : BitVec 32) (valid : f.valid = true) (fits : v.toNat < 2 ^ f.bits)
      (room : max s.acc.length f.position + f.bits ≤ s.cfg.accMaxBits) :
      CompletesIn s (.pack f v) (setAcc (packedAcc f v s.acc) s)
  | pkfin : CompletesIn s .pkfin (setPbuf (packedBytes s.acc) s)
  | frame (k : Byte) (noFault : s.fault = 0x00) :
      CompletesIn s (.frame k)
        (setCrc (checksum (frameBody s.addr k s.pbuf)) (setObuf (frameBytes s.addr k s.pbuf) s))
  | unframe (header : headerSize ≤ s.ibuf.length) :
      CompletesIn s .unframe
        (setRx (ofBe16 (byteAt s.ibuf 2) (byteAt s.ibuf 3)) (byteAt s.ibuf 4) (byteAt s.ibuf 5)
          (ofBe16 (byteAt s.ibuf 6) (byteAt s.ibuf 7)) (BitVec.ofNat 16 (s.ibuf.length - headerSize)) s)
  | query (k : Byte) (bytes : List Byte) (entry : queryRom s.cfg.acQueryLiteral k = some bytes) :
      CompletesIn s (.query k) (setObuf bytes s)

/-- r is what command i answers in s when it completes as its rule says, or an error raised in s. -/
def EndsIn (s : State) (i : Instr) (r : Result) : Prop :=
  (∃ u, CompletesIn s i u ∧ r = finish u) ∨ ∃ e, r = fail e s

theorem EndsIn.ite {p : Prop} [Decidable p] {s : State} {i : Instr} {q r : Result} (hq : p → EndsIn s i q)
    (hr : ¬ p → EndsIn s i r) : EndsIn s i (if p then q else r) := by
  split
  · exact hq ‹_›
  · exact hr ‹_›

theorem exec_endsIn (i : Instr) (s : State) : EndsIn s i (exec i s) := by
  have done {u : State} (hu : CompletesIn s i u) : EndsIn s i (finish u) := .inl ⟨u, hu, rfl⟩
  have error {p : Prop} (e : ErrorKind) (_ : p) : EndsIn s i (fail e s) := .inr ⟨e, rfl⟩
  cases i with
  | nop => exact done .nop
  | srst => exact done .srst
  | errclr => exact done .errclr
  | setaddr a => exact done (.setaddr a)
  | ibclr => exact done .ibclr
  | ibput b => exact .ite (error _) fun room => done (.ibput b room)
  | pbclr => exact done .pbclr
  | pbput b => exact .ite (error _) fun room => done (.pbput b room)
  | crcinit => exact done .crcinit
  | crcbyte b => exact done (.crcbyte b)
  | crcib off len =>
    exact .ite (fun covered => done (.crcib off len ((ibufCovers_eq_true_iff ..).mp covered))) (error _)
  | crcrd => exact done .crcrd
  | setchunk off len =>
    exact .ite (fun covered => done (.setchunk off len ((ibufCovers_eq_true_iff ..).mp covered))) (error _)
  | unpack f =>
    refine .ite (error _) fun valid => .ite (error _) fun covered => .ite (error _) fun enough => done (.unpack f ?_ ?_ ?_)
    · exact Bool.eq_true_of_not_eq_false valid
    · exact (ibufCovers_eq_true_iff ..).mp (Bool.eq_true_of_not_eq_false covered)
    · exact Nat.le_of_not_lt enough
  | pkclr => exact done .pkclr
  | pack f v =>
    refine .ite (error _) fun valid => .ite (error _) fun fits => .ite (error _) fun room => done (.pack f v ?_ ?_ ?_)
    · exact Bool.eq_true_of_not_eq_false valid
    · exact Nat.lt_of_not_le fits
    · exact Nat.le_of_not_lt room
  | pkfin => exact done .pkfin
  | frame k => exact .ite (error _) fun noFault => done (.frame k (not_not.mp noFault))
  | unframe => exact .ite (error _) fun header => done (.unframe (Nat.le_of_not_lt header))
  | query k =>
    simp only [exec, execQuery]
    split
    case h_1 bytes entry => exact done (.query k bytes entry)
    case h_2 noEntry => exact error _ noEntry

/-- What a command can do, said of the state it leaves. -/
theorem exec_cases {i : Instr} {s t : State} (h : exec i s = .next t) :
    (∃ u, CompletesIn s i u ∧ t = complete u) ∨ ∃ e, t = raise e s := by
  obtain ⟨u, hu, hr⟩ | ⟨e, hr⟩ := exec_endsIn i s
  · exact .inl ⟨u, hu, Host.Outcome.next.inj (h.symm.trans hr)⟩
  · exact .inr ⟨e, Host.Outcome.next.inj (h.symm.trans hr)⟩

/-- What a step can do: it takes the oldest word, which is a command that completes, or an error is raised. -/
theorem step_cases {s t : State} (h : step s = .next t) :
    ∃ w rest, s.pending = w :: rest ∧
      ((∃ i u, decode w = .instr i ∧ CompletesIn (setPending rest s) i u ∧ t = complete u) ∨
        ∃ e, t = raise e (setPending rest s)) := by
  cases hp : s.pending with
  | nil => rw [step_of_nil s hp] at h; cases h
  | cons w rest =>
    refine ⟨w, rest, rfl, ?_⟩
    rw [step_of_cons s w rest hp] at h
    cases hd : decode w with
    | illegal why => exact .inr ⟨_, (Host.Outcome.next.inj (by rwa [hd] at h)).symm⟩
    | instr i =>
      rw [hd] at h
      obtain ⟨u, hu, ht⟩ | error := exec_cases h
      · exact .inl ⟨i, u, rfl, hu, ht⟩
      · exact .inr error

end Sys2Proof.Machine
end

section
/-! PROOFS. FAULT (10_state.md R13). -/

namespace Sys2Proof.Machine

theorem stickyFault_of_zero {before : Byte} (h : before = 0x00) (e : Byte) : stickyFault before e = e := if_pos h

theorem stickyFault_of_ne_zero {before : Byte} (h : before ≠ 0x00) (e : Byte) : stickyFault before e = before :=
  if_neg h

/-- Only ERRCLR and SRST write FAULT when they complete. -/
theorem CompletesIn.fault_eq {s u : State} {i : Instr} (h : CompletesIn s i u) (herr : i ≠ .errclr)
    (hrst : i ≠ .srst) : u.fault = s.fault := by
  cases h with
  | errclr => exact absurd rfl herr
  | srst => exact absurd rfl hrst
  | _ => rfl

/-- The first error's code goes to FAULT. -/
theorem step_fault_of_error {s t : State} (h : step s = .next t) (hs : t.status ≠ 0x00) (hf : s.fault = 0x00) :
    t.fault = t.status := by
  obtain ⟨w, rest, -, ⟨i, u, -, -, rfl⟩ | ⟨e, rfl⟩⟩ := step_cases h
  · exact absurd rfl hs
  · exact stickyFault_of_zero hf _

/-- A nonzero FAULT stays at every step but ERRCLR's and SRST's. -/
theorem step_keeps_fault {s t : State} {w : Word64} {rest : List Word64} (hp : s.pending = w :: rest)
    (h : step s = .next t) (hf : s.fault ≠ 0x00) (herr : decode w ≠ .instr .errclr) (hrst : decode w ≠ .instr .srst) :
    t.fault = s.fault := by
  obtain ⟨w', rest', hp', ⟨i, u, hd, hu, rfl⟩ | ⟨e, rfl⟩⟩ := step_cases h
  · obtain ⟨rfl, rfl⟩ : w = w' ∧ rest = rest' := List.cons.inj (hp.symm.trans hp')
    exact hu.fault_eq (fun hi => herr (hi ▸ hd)) (fun hi => hrst (hi ▸ hd))
  · exact stickyFault_of_ne_zero hf _

theorem exec_frame_of_fault (k : Byte) {s : State} (hf : s.fault ≠ 0x00) :
    exec (.frame k) s = .next { s with status := 0x13 } := by
  have blocked : exec (.frame k) s = .next (raise .faultPending s) := if_pos hf
  rw [blocked, raise, stickyFault_of_ne_zero hf]
  rfl

/-- Settles O25: each part from what a step can do. -/
theorem faultIsSticky : Obligations.FaultIsSticky :=
  ⟨fun _ _ => step_fault_of_error, fun _ _ _ _ => step_keeps_fault,
    fun _ => ⟨⟨_, rfl, rfl⟩, _, rfl, rfl⟩, fun k _ => exec_frame_of_fault k⟩

end Sys2Proof.Machine
end

section
/-! PROOFS. The register table (10_state.md R11). -/

namespace Sys2Proof.Machine

/-- The reset values by port number. -/
theorem readReg_resetWith (c : Config) :
    (List.range 16).map (fun n => readReg n (State.resetWith c)) =
      [some 0, some 0, some 0xFFFF, some 0, some (c.resetAddr.setWidth 64), some 0, some 0, some 0, some 0, some 0,
        some 0, some 0, some 0, some 0, some 0, some 0] := by
  simp only [readReg, settled_of_nil _ (resetWith_pending c)]
  rfl

/-- Settles O27: an error writes STATUS and FAULT alone, and each command that completes writes what its row lists. -/
theorem registerTable : Obligations.RegisterTable := by
  refine ⟨readReg_resetWith, fun i s t h => ?_⟩
  obtain ⟨u, hu, rfl⟩ | ⟨e, rfl⟩ := exec_cases h
  · cases hu <;> simp
  · have first (changed : (raise e s).fault ≠ s.fault) : s.fault = 0x00 :=
      by_contra fun hf => changed (stickyFault_of_ne_zero hf _)
    exact ⟨fun changed => .inr (.inr ⟨code_ne_zero e, first changed⟩), by simp⟩

end Sys2Proof.Machine
end

section
/-! PROOFS. The capacities of the buffers (10_state.md R17-R21, R28) along the steps, and OBUF's (R21). -/

namespace Sys2Proof.Machine

theorem CompletesIn.cfg_eq {s u : State} {i : Instr} (h : CompletesIn s i u) : u.cfg = s.cfg := by
  cases h <;> rfl

theorem CompletesIn.memory_wf {s u : State} {i : Instr} (h : CompletesIn s i u) (hs : Memory.wf s) : Memory.wf u := by
  cases h with
  | srst => exact resetWith_memory_wf s.cfg
  | ibclr => exact clearIbuf_memory_wf s hs
  | ibput b room => exact appendIbuf_memory_wf b s hs room
  | pbclr => exact clearPbuf_memory_wf s hs
  | pbput b room => exact appendPbuf_memory_wf b s hs room
  | pkclr => exact clearAcc_memory_wf s hs
  | pack f v _ _ room => exact packedAcc_memory_wf f v s hs room
  | pkfin => exact packedPbuf_memory_wf s hs
  | frame k => exact frameObuf_memory_wf k s hs
  | query k bytes entry => exact romObuf_memory_wf _ k bytes s hs entry
  | _ => exact hs

theorem step_keeps_memory {s t : State} (h : step s = .next t) (hs : s.cfg.Legal ∧ Memory.wf s) :
    t.cfg.Legal ∧ Memory.wf t := by
  obtain ⟨w, rest, -, ⟨i, u, -, hu, rfl⟩ | ⟨e, rfl⟩⟩ := step_cases h
  · exact ⟨hu.cfg_eq ▸ hs.1, hu.memory_wf hs.2⟩
  · exact hs

/-- Settles O47: FRAME's frame is the payload and 10 bytes more, and a ROM entry has at most 12. -/
theorem obufCapacityFromTwo : Obligations.ObufCapacityFromTwo := by
  intro i s t ⟨_, hpbuf, _⟩ hobuf htwo h
  obtain ⟨u, hu, rfl⟩ | ⟨e, rfl⟩ := exec_cases h
  · cases hu with
    | srst => exact Nat.zero_le _
    | frame k => simpa [Config.obufSize] using hpbuf
    | query k bytes entry =>
      have short := queryRom_length_le _ k bytes entry
      simp only [complete_obuf, setObuf_obuf, complete_cfg, setObuf_cfg, Config.obufSize]
      omega
    | _ => exact hobuf
  · exact hobuf

/-- Refutes O48: at PBUF_SIZE = 1 OBUF_SIZE is 11, and QUERY 1 leaves the 12 bytes of ROM entry 1 in OBUF. -/
theorem not_obufCapacityAlways : ¬ Obligations.ObufCapacityAlways := by
  intro h
  have fits := h (.query 1) (State.resetWith (Config.mk 8 1 0 false)) _ (by decide) (by decide) rfl
  exact absurd fits (by decide)

end Sys2Proof.Machine
end

section
/-! PROOFS. The length registers (10_state.md R28) and the read port (R26, R27). -/

namespace Sys2Proof.Machine

/-- With legal parameters a buffer that fits its capacity is shorter than 2^16, so its length register is exact. -/
theorem lengths_exact {s : State} (h : s.cfg.Legal ∧ Memory.wf s) :
    s.accLen.toNat = s.acc.length ∧ s.ibufLen.toNat = s.ibuf.length ∧ s.pbufLen.toNat = s.pbuf.length ∧
      s.obufLen.toNat = s.obuf.length := by
  obtain ⟨⟨⟨_, hibuf⟩, _, hpbuf⟩, wfIbuf, wfPbuf, wfObuf, wfAcc⟩ := h
  rw [Config.obufSize] at wfObuf
  rw [Config.accMaxBits] at wfAcc
  refine ⟨?_, ?_, ?_, ?_⟩ <;> exact Nat.mod_eq_of_lt (by omega)

/-- Settles O32: the invariant has legal parameters and buffers that fit. -/
theorem lengthRegistersDoNotWrap : Obligations.LengthRegistersDoNotWrap := by
  intro s ⟨legal, wf, _⟩
  exact lengths_exact ⟨legal, wf⟩

/-- What every step keeps holds of the state that the issued words leave. -/
theorem settled_induction {P : State → Prop} (keeps : ∀ {s t : State}, step s = .next t → P s → P t) (s : State)
    (h : P s) : P (settled s) := by
  induction hp : s.pending generalizing s with
  | nil => rwa [settled_of_nil s hp]
  | cons w rest ih =>
    obtain ⟨t, e, ht, -⟩ := exists_step_of_cons s w rest hp
    rw [settled_of_step s t e]
    exact ih t (keeps e h) ht

theorem getElem?_eq_ite_getD {α : Type} (l : List α) (i : Nat) (d : α) :
    l[i]? = if i < l.length then some (l.getD i d) else none := by
  split
  case isTrue hi => simp [hi]
  case isFalse hi => exact List.getElem?_eq_none (Nat.le_of_not_lt hi)

theorem register_of_gt {n : Nat} (h : 0x0F < n) (s : State) : register n s = none := by
  obtain ⟨k, rfl⟩ := Nat.exists_eq_add_of_le' h
  rfl

/-- Settles O33: the reads answer from the settled state, whose length registers are exact. -/
theorem readPortAnswers : Obligations.ReadPortAnswers := by
  refine ⟨fun s => ?_, fun s n h => register_of_gt h _⟩
  obtain ⟨hrun, hnone⟩ := run_eq_settled s
  refine ⟨settled s, hrun, hnone, rfl, fun ⟨legal, wf, _⟩ i => ?_⟩
  obtain ⟨hacc, hibuf, hpbuf, hobuf⟩ := lengths_exact (settled_induction step_keeps_memory s ⟨legal, wf⟩)
  rw [hacc, hibuf, hpbuf, hobuf]
  exact ⟨getElem?_eq_ite_getD _ i 0, getElem?_eq_ite_getD _ i 0, getElem?_eq_ite_getD _ i 0,
    getElem?_eq_ite_getD _ i false⟩

end Sys2Proof.Machine
end

section
/-! PROOFS. The order of the issued words (20_memory.md R50) and what a host read sees of them. -/

namespace Sys2Proof.Machine

/-- The host issues further words behind those that wait. -/
def issueAll (later : List Word64) (s : State) : State := setPending (s.pending ++ later) s

/-- An answer with f done to its next state. -/
def mapNext (f : State → State) : Result → Result
  | .next t => .next (f t)
  | .fault r => .fault r
  | .refused r => .refused r

theorem ite_eq_mapNext {p : Prop} [Decidable p] {f : State → State} {q q' r r' : Result} (hq : q' = mapNext f q)
    (hr : r' = mapNext f r) : (if p then q' else r') = mapNext f (if p then q else r) := by
  split
  · exact hq
  · exact hr

theorem execQuery_of_some {k : Byte} {s : State} {bytes : List Byte}
    (entry : queryRom s.cfg.acQueryLiteral k = some bytes) : execQuery k s = finish (setObuf bytes s) := by
  rw [execQuery, entry]

theorem execQuery_of_none {k : Byte} {s : State} (noEntry : queryRom s.cfg.acQueryLiteral k = none) :
    execQuery k s = fail .illegalCommand s := by
  rw [execQuery, noEntry]

/-- No command looks at the waiting words, and SRST keeps them. -/
theorem exec_issueAll (i : Instr) (later : List Word64) (s : State) :
    exec i (issueAll later s) = mapNext (issueAll later) (exec i s) := by
  cases i with
  | ibput b => exact ite_eq_mapNext rfl rfl
  | pbput b => exact ite_eq_mapNext rfl rfl
  | crcib off len => exact ite_eq_mapNext rfl rfl
  | setchunk off len => exact ite_eq_mapNext rfl rfl
  | unpack f => exact ite_eq_mapNext rfl (ite_eq_mapNext rfl (ite_eq_mapNext rfl rfl))
  | pack f v => exact ite_eq_mapNext rfl (ite_eq_mapNext rfl (ite_eq_mapNext rfl rfl))
  | frame k => exact ite_eq_mapNext rfl rfl
  | unframe => exact ite_eq_mapNext rfl rfl
  | query k =>
    cases rom : queryRom s.cfg.acQueryLiteral k with
    | some bytes =>
      rw [exec, exec, execQuery_of_some rom]
      exact execQuery_of_some rom
    | none =>
      rw [exec, exec, execQuery_of_none rom]
      exact execQuery_of_none rom
  | _ => rfl

/-- Words issued later do not change what a step does. -/
theorem step_issueAll (later : List Word64) {s t : State} (h : step s = .next t) :
    step (issueAll later s) = .next (issueAll later t) := by
  cases hp : s.pending with
  | nil => rw [step_of_nil s hp] at h; cases h
  | cons w rest =>
    have taken : setPending (rest ++ later) (issueAll later s) = issueAll later (setPending rest s) := rfl
    rw [step_of_cons s w rest hp] at h
    rw [step_of_cons _ w (rest ++ later) (congrArg (· ++ later) hp), taken]
    cases hd : decode w with
    | instr i =>
      rw [hd] at h
      exact (exec_issueAll i later _).trans (congrArg (mapNext (issueAll later)) h)
    | illegal why =>
      rw [hd] at h
      exact congrArg (mapNext (issueAll later)) h

theorem settled_issueAll (later : List Word64) (s : State) :
    settled (issueAll later s) = settled (issueAll later (settled s)) :=
  settled_induction (P := fun t => settled (issueAll later s) = settled (issueAll later t))
    (fun h same => same.trans (settled_of_step _ _ (step_issueAll later h))) s rfl

/-- Running the waiting words with further words behind them leaves these and the same state. -/
theorem run_issueAll (later : List Word64) (s : State) :
    Host.Core.run core s.pending.length (issueAll later s) = .next (setPending later (settled s)) := by
  induction hp : s.pending generalizing s with
  | nil => rw [settled_of_nil s hp, issueAll, hp]; rfl
  | cons w rest ih =>
    obtain ⟨t, e, ht, -⟩ := exists_step_of_cons s w rest hp
    rw [settled_of_step s t e]
    exact (run_succ_of_next core _ _ _ (step_issueAll later e)).trans (ih t ht)

/-- Settles O35: the waiting words run to the settled state, and words behind them stay behind. -/
theorem commandsRunInOrder : Obligations.CommandsRunInOrder := fun s ws =>
  ⟨settled (setPending ws s), (run_eq_settled (setPending ws s)).1, fun later => run_issueAll later (setPending ws s)⟩

theorem sameReads_of_settled_eq {s t : State} (h : settled s = settled t) : Rules.SameReads s t := by
  simp [Rules.SameReads, readReg, readIbuf, readPbuf, readObuf, readAcc, h]

/-- Settles O49: reads answer from the settled state, which no step changes and in which w executes last. -/
theorem readsSeeIssuedCommands : Obligations.ReadsSeeIssuedCommands := by
  refine ⟨fun s t h => sameReads_of_settled_eq (settled_of_step s t h), fun s w => ?_⟩
  obtain ⟨hrun, hnone⟩ := run_eq_settled s
  obtain ⟨u, hstep, hu, -⟩ := exists_step_of_cons (issue w (settled s)) w [] (congrArg (· ++ [w]) hnone)
  refine ⟨settled s, u, hrun, hnone, hstep, hu, sameReads_of_settled_eq ?_⟩
  calc settled (issue w s) = settled (issue w (settled s)) := settled_issueAll [w] s
    _ = settled u := settled_of_step _ _ hstep

end Sys2Proof.Machine
end

section
/-! PROOFS. Commands executed twice (20_memory.md R46). -/

namespace Sys2Proof.Machine

/-- Executing i again changes nothing in the state that r answers. -/
def StaysAfter (i : Instr) (r : Result) : Prop := ∀ t, r = .next t → exec i t = .next t

theorem StaysAfter.ite {i : Instr} {p : Prop} [Decidable p] {q r : Result} (hq : p → StaysAfter i q)
    (hr : ¬ p → StaysAfter i r) : StaysAfter i (if p then q else r) := by
  split
  · exact hq ‹_›
  · exact hr ‹_›

theorem stickyFault_stickyFault (before e : Byte) :
    stickyFault (stickyFault before e) e = stickyFault before e := by
  by_cases h : before = 0x00
  · rw [stickyFault_of_zero h]
    exact ite_self e
  · simp only [stickyFault_of_ne_zero h]

theorem raise_raise (e : ErrorKind) (s : State) : raise e (raise e s) = raise e s := by
  simp only [raise, stickyFault_stickyFault]

theorem staysAfter_finish {i : Instr} {u : State} (h : exec i (complete u) = finish u) : StaysAfter i (finish u) := by
  rintro t ⟨⟩
  exact h

theorem staysAfter_fail {i : Instr} {e : ErrorKind} {s : State} (h : exec i (raise e s) = fail e (raise e s)) :
    StaysAfter i (fail e s) := by
  rintro t ⟨⟩
  rw [h, fail_eq, raise_raise]

theorem setchunk_staysAfter (off len : BitVec 16) (s : State) :
    StaysAfter (.setchunk off len) (execSetchunk off len s) :=
  .ite (fun covered => staysAfter_finish (if_pos covered)) fun outside => staysAfter_fail (if_neg outside)

theorem unpack_staysAfter (f : FieldSpec) (s : State) : StaysAfter (.unpack f) (execUnpack f s) := by
  refine .ite (fun invalid => staysAfter_fail (if_pos invalid)) fun valid =>
    .ite (fun outside => staysAfter_fail ((if_neg valid).trans (if_pos outside))) fun covered =>
    .ite (fun short => staysAfter_fail ?_) fun enough => staysAfter_finish ?_
  · exact (if_neg valid).trans ((if_neg covered).trans (if_pos short))
  · exact (if_neg valid).trans ((if_neg covered).trans (if_neg enough))

/-- FRAME's guard reads FAULT: an error is FaultPending, which keeps the nonzero FAULT. -/
theorem frame_staysAfter (k : Byte) (s : State) : StaysAfter (.frame k) (execFrame k s) := by
  refine .ite (fun faulted => staysAfter_fail (if_pos ?_)) fun noFault => staysAfter_finish (if_neg noFault)
  rwa [raise_fault, stickyFault_of_ne_zero faulted]

theorem unframe_staysAfter (s : State) : StaysAfter .unframe (execUnframe s) :=
  .ite (fun short => staysAfter_fail (if_pos short)) fun header => staysAfter_finish (if_neg header)

theorem query_staysAfter (k : Byte) (s : State) : StaysAfter (.query k) (execQuery k s) := by
  cases rom : queryRom s.cfg.acQueryLiteral k with
  | some bytes =>
    rw [execQuery_of_some rom]
    exact staysAfter_finish (execQuery_of_some rom)
  | none =>
    rw [execQuery_of_none rom]
    exact staysAfter_fail (execQuery_of_none rom)

/-- R46's fifteen commands. -/
def Idempotent (i : Instr) : Prop :=
  i ∈ [.nop, .srst, .errclr, .ibclr, .pbclr, .crcinit, .crcrd, .pkclr, .pkfin, .unframe] ∨
    (∃ a, i = .setaddr a) ∨ (∃ o l, i = .setchunk o l) ∨ (∃ f, i = .unpack f) ∨ (∃ k, i = .frame k) ∨
    ∃ k, i = .query k

theorem exec_staysAfter {i : Instr} (hi : Idempotent i) (s : State) : StaysAfter i (exec i s) := by
  cases i with
  | setchunk off len => exact setchunk_staysAfter off len s
  | unpack f => exact unpack_staysAfter f s
  | frame k => exact frame_staysAfter k s
  | unframe => exact unframe_staysAfter s
  | query k => exact query_staysAfter k s
  | ibput | pbput | crcbyte | crcib | pack => simp [Idempotent] at hi
  | _ => exact staysAfter_finish rfl

/-- Settles O29: each of R46's commands stays where its first execution leads, and the five others append to a buffer or
fold a byte into CRC. -/
theorem idempotentCommands : Obligations.IdempotentCommands := by
  refine ⟨fun i s t hi h => exec_staysAfter hi s t h, ?_, ?_, ?_, ?_, ?_⟩
  · exact ⟨0x55, State.reset, _, _, rfl, rfl, by decide⟩
  · exact ⟨0x55, State.reset, _, _, rfl, rfl, by decide⟩
  · exact ⟨0x80, State.reset, _, _, rfl, rfl, by decide +kernel⟩
  · exact ⟨0, 1, setIbuf [0x80] State.reset, _, _, rfl, rfl, by decide +kernel⟩
  · exact ⟨⟨1, 1, 8⟩, 0x55, State.reset, _, _, rfl, rfl, by decide⟩

end Sys2Proof.Machine
end

section
/-! PROOFS. A 16-bit field unit and the 8-bit units on its bytes (20_memory.md R43). -/

namespace Sys2Proof

theorem unit_of_high_gt {f : FieldSpec} (h : 8 < f.bitHigh.toNat) (chunk : List Byte) :
    f.unit chunk = 256 * (byteAt chunk (f.byteIndex.toNat - 1)).toNat + (byteAt chunk f.byteIndex.toNat).toNat := by
  have wide : f.width = 16 := if_pos h
  rw [FieldSpec.unit, if_pos wide, ofBe16_toNat]

theorem unit_of_high_le {f : FieldSpec} (h : f.bitHigh.toNat ≤ 8) (chunk : List Byte) :
    f.unit chunk = (byteAt chunk (f.byteIndex.toNat - 1)).toNat := by
  have narrow : f.width = 8 := if_neg (Nat.not_lt.mpr h)
  rw [FieldSpec.unit, narrow]
  rfl

theorem unit_div_of_high_gt {f h : FieldSpec} (hf : 8 < f.bitHigh.toNat) (hh : h.bitHigh.toNat ≤ 8)
    (same : f.byteIndex = h.byteIndex) (chunk : List Byte) : f.unit chunk / 2 ^ 8 = h.unit chunk := by
  rw [unit_of_high_gt hf, unit_of_high_le hh, same]
  omega

theorem unit_mod_of_high_gt {f g : FieldSpec} (hf : 8 < f.bitHigh.toNat) (hg : g.bitHigh.toNat ≤ 8)
    (next : g.byteIndex.toNat = f.byteIndex.toNat + 1) (chunk : List Byte) : f.unit chunk % 2 ^ 8 = g.unit chunk := by
  rw [unit_of_high_gt hf, unit_of_high_le hg, next, Nat.add_sub_cancel]
  omega

/-- A field 8 positions higher in the 16-bit unit is the field of the 8-bit unit on the unit's first byte. -/
theorem value_of_shifted {f h : FieldSpec} (low : 1 ≤ h.bitLow.toNat) (hf : 8 < f.bitHigh.toNat)
    (hh : h.bitHigh.toNat ≤ 8) (same : f.byteIndex = h.byteIndex) (hlo : f.bitLow.toNat = h.bitLow.toNat + 8)
    (hhi : f.bitHigh.toNat = h.bitHigh.toNat + 8) (chunk : List Byte) : f.value chunk = h.value chunk := by
  have bits : f.bits = h.bits := by rw [FieldSpec.bits, FieldSpec.bits, hlo, hhi, Nat.add_sub_add_right]
  have shift : f.bitLow.toNat - 1 = 8 + (h.bitLow.toNat - 1) := by omega
  rw [FieldSpec.value, FieldSpec.value, bits, shift, pow_add, ← Nat.div_div_eq_div_mul, unit_div_of_high_gt hf hh same]

namespace Machine

theorem exec_unpack_of_checks {f : FieldSpec} {s : State} (valid : f.valid = true)
    (covered : s.chunkBase.toNat + s.chunkLen.toNat ≤ s.ibuf.length) (enough : f.need ≤ s.chunkLen.toNat) :
    exec (.unpack f) s = finish (setRes (BitVec.ofNat 64 (f.value s.chunk)) s) := by
  have inIbuf := (ibufCovers_eq_true_iff ..).mpr covered
  simp [exec, execUnpack, valid, inIbuf, Nat.not_lt.mpr enough]

theorem unpack_shifted_eq {f h : FieldSpec} {s t u : State} (valid : h.valid = true) (hh : h.bitHigh.toNat ≤ 8)
    (same : f.byteIndex = h.byteIndex) (hlo : f.bitLow.toNat = h.bitLow.toNat + 8)
    (hhi : f.bitHigh.toNat = h.bitHigh.toNat + 8) (ht : exec (.unpack f) s = .next t) (ok : t.status = 0x00)
    (hu : exec (.unpack h) s = .next u) : u = t := by
  obtain ⟨_, low, ordered, _⟩ := (valid_iff h).mp valid
  have hf : 8 < f.bitHigh.toNat := by omega
  obtain ⟨v, hv, rfl⟩ | ⟨e, rfl⟩ := exec_cases ht
  · cases hv with
    | unpack _ validWide covered enough =>
      have need : h.need ≤ f.need := by
        have wide : f.width = 16 := if_pos hf
        rw [FieldSpec.need, FieldSpec.need, if_pos wide, same]
        split <;> omega
      rw [exec_unpack_of_checks valid covered (need.trans enough), ← value_of_shifted low hf hh same hlo hhi] at hu
      exact (Host.Outcome.next.inj hu).symm
  · exact absurd ok (code_ne_zero e)

/-- Settles O42: the 8-bit units are the quotient and the remainder by 256 of the 16-bit unit. -/
theorem mixedWidthUnits : Obligations.MixedWidthUnits := by
  refine ⟨fun chunk f g h _ hf next hg same hh => ?_, fun f h s t u => unpack_shifted_eq⟩
  have low := unit_mod_of_high_gt hf hg next chunk
  have high := unit_div_of_high_gt hf hh same.symm chunk
  refine ⟨low, fun p _ hp => ⟨?_, ?_⟩⟩
  · rw [← low, Nat.testBit_mod_two_pow, decide_eq_true (by omega), Bool.true_and]
  · rw [← high, Nat.testBit_div_two_pow]
    congr 1
    omega

end Machine

end Sys2Proof
end

section
/-! PROOFS. Which words are illegal (30_encoding.md R69, R70), read off the row of a word's opcode, and the word that a
row's format and a word's fields spell. -/

namespace Sys2Proof

/-- The word that the fields of w spell in a format (R62-R66). -/
def formatWord (w : Word64) : Format → Word64
  | .n => encodeN (opField w)
  | .b => encodeB (opField w) (imm8Field w)
  | .f => encodeF (opField w) (specField w) (valueField w)
  | .a => encodeA (opField w) (imm24Field w)
  | .r => encodeR (opField w) (offField w) (lenField w)

/-- Outside its reserved bits a word is its fields. -/
theorem formatWord_eq_self {w : Word64} {format : Format} (reserved : w &&& reservedMask format = 0) :
    formatWord w format = w := by
  apply BitVec.eq_of_toNat_eq
  cases format with
  | n =>
    rw [reservedN_clear_iff] at reserved
    rw [formatWord, encodeN_toNat, opField_toNat]
    omega
  | b =>
    rw [reservedB_clear_iff] at reserved
    rw [formatWord, encodeB_toNat, opField_toNat, imm8Field_toNat]
    omega
  | f =>
    simp only [formatWord, encodeF_toNat, opField_toNat, specField_byteIndex_toNat, specField_bitLow_toNat,
      specField_bitHigh_toNat, valueField_toNat]
    omega
  | a =>
    rw [reservedA_clear_iff] at reserved
    rw [formatWord, encodeA_toNat, opField_toNat, imm24Field_toNat]
    omega
  | r =>
    rw [reservedR_clear_iff] at reserved
    rw [formatWord, encodeR_toNat, opField_toNat, offField_toNat, lenField_toNat]
    omega

theorem encode_of_row {w : Word64} {format : Format} {i : Instr} (row : opcodeRow (opField w) w = some (format, i))
    (unpackV : opField w = 0x21 → valueField w = 0) : encode i = formatWord w format := by
  generalize hop : opField w = op at row
  unfold opcodeRow at row
  split at row <;> cases row
  -- UNPACK's word has no V of its own.
  case h_14 => rw [formatWord, hop, unpackV hop]; rfl
  all_goals rw [formatWord, hop]; rfl

theorem wellFormed_of_row {w : Word64} {format : Format} {i : Instr}
    (row : opcodeRow (opField w) w = some (format, i)) (queryK : opField w = 0x32 → (imm8Field w).toNat ≤ 2) :
    WellFormed i = true := by
  generalize hop : opField w = op at row
  unfold opcodeRow at row
  split at row <;> cases row
  -- QUERY, the one command with an operand it refuses.
  case h_20 => exact decide_eq_true (queryK hop)
  all_goals rfl

/-- The opcodes without a row are those that R70 lists. -/
theorem opcodeRow_eq_none_iff (op : Byte) (w : Word64) :
    opcodeRow op w = none ↔ Rules.unassigned op.toNat = true := by
  have sameRows : (opcodeRow op w).isNone = (opcodeRow op 0).isNone := by
    unfold opcodeRow
    split <;> rfl
  have listed : ∀ op : Byte, (opcodeRow op 0).isNone = Rules.unassigned op.toNat := by decide +kernel
  rw [← Option.isNone_iff_eq_none, sameRows, listed]

theorem reservedSet_of_row {w : Word64} {format : Format} {i : Instr}
    (row : opcodeRow (opField w) w = some (format, i)) :
    Rules.reservedSet (opField w).toNat w = true ↔ w &&& reservedMask format ≠ 0 := by
  generalize opField w = op at row ⊢
  unfold opcodeRow at row
  split at row <;> cases row
  all_goals
    simp only [ne_eq, reservedN_clear_iff, reservedB_clear_iff, reservedA_clear_iff, reservedR_clear_iff,
      reservedF_clear]
    simp [Rules.reservedSet]

theorem badOperand_iff (w : Word64) :
    Rules.badOperand (opField w).toNat w = true ↔
      (opField w = 0x21 ∧ valueField w ≠ 0) ∨ (opField w = 0x32 ∧ 2 < (imm8Field w).toNat) := by
  simp [Rules.badOperand, ← BitVec.toNat_inj, Nat.succ_le_iff]

/-- For a word whose opcode has a row, the illegal words are those that fail one of decode's three other checks. -/
theorem illegalWord_iff_of_row {w : Word64} {format : Format} {i : Instr}
    (row : opcodeRow (opField w) w = some (format, i)) :
    Rules.IllegalWord w ↔ w &&& reservedMask format ≠ 0 ∨ (opField w = 0x21 ∧ valueField w ≠ 0) ∨
      (opField w = 0x32 ∧ 2 < (imm8Field w).toNat) := by
  have assigned : ¬ Rules.unassigned (opField w).toNat = true := by
    rw [← opcodeRow_eq_none_iff _ w, row]
    exact nofun
  rw [Rules.IllegalWord, ← opField_toNat, reservedSet_of_row row, badOperand_iff, or_iff_right assigned]

theorem decode_of_illegalWord {w : Word64} (h : Rules.IllegalWord w) : ∃ why, decode w = .illegal why := by
  unfold decode
  split
  case h_1 => exact ⟨_, rfl⟩
  case h_2 format i row =>
    rw [illegalWord_iff_of_row row] at h
    split_ifs with reserved unpackV queryK
    · exact ⟨_, rfl⟩
    · exact ⟨_, rfl⟩
    · exact ⟨_, rfl⟩
    · exact absurd h (not_or.mpr ⟨reserved, not_or.mpr ⟨unpackV, queryK⟩⟩)

/-- Every other word passes R69's checks, and its row's command has this word. -/
theorem decode_of_not_illegalWord {w : Word64} (h : ¬ Rules.IllegalWord w) :
    ∃ i, WellFormed i = true ∧ encode i = w ∧ decode w = .instr i := by
  cases row : opcodeRow (opField w) w with
  | none =>
    rw [opcodeRow_eq_none_iff, opField_toNat] at row
    exact absurd (.inl row) h
  | some r =>
    obtain ⟨format, i⟩ := r
    simp only [illegalWord_iff_of_row row, not_or, not_and, not_not, not_lt] at h
    obtain ⟨reserved, unpackV, queryK⟩ := h
    exact ⟨i, wellFormed_of_row row queryK, (encode_of_row row unpackV).trans (formatWord_eq_self reserved),
      decode_of_row w format i row reserved unpackV queryK⟩

namespace Machine

/-- Settles O4: the step of a word is what the word decodes to. -/
theorem illegalCommandWords : Obligations.IllegalCommandWords := by
  refine fun s w rest hp => ⟨fun illegal => ?_, fun legal => ?_⟩
  · obtain ⟨why, hd⟩ := decode_of_illegalWord illegal
    rw [step_of_cons s w rest hp, hd]
    rfl
  · obtain ⟨i, wf, hw, hd⟩ := decode_of_not_illegalWord legal
    refine ⟨i, wf, hw, ?_⟩
    rw [step_of_cons s w rest hp, hd]
    rfl

end Machine

end Sys2Proof
end

section
/-! PROOFS. The expansions of the pseudo-commands (30_encoding.md R72), run. -/

namespace Sys2Proof.Machine

open Rules

theorem runAll_cons_of_next {i : Instr} {s t : State} (h : exec i s = .next t) (rest : List Instr) :
    runAll (i :: rest) s = runAll rest t := by
  rw [runAll, h]

/-- Commands that each append a byte to a buffer below its capacity append a byte string that fits. -/
theorem runAll_puts {put : Byte → Instr} {loaded : List Byte → State} {capacity : Nat}
    (appends : ∀ held b, held.length < capacity → exec (put b) (loaded held) = .next (loaded (bufAppend held b)))
    (held bytes : List Byte) (fits : held.length + bytes.length ≤ capacity) :
    runAll (bytes.map put) (loaded held) = .next (loaded (held ++ bytes)) := by
  induction bytes generalizing held with
  | nil => rw [List.append_nil]; rfl
  | cons b bytes ih =>
    rw [List.length_cons] at fits
    rw [List.map_cons, runAll_cons_of_next (appends held b (by omega)), ih _ (by simp [bufAppend]; omega),
      bufAppend, List.append_assoc, List.singleton_append]

theorem exec_ibput_of_room {s : State} (room : s.ibuf.length ≠ s.cfg.ibufSize) (b : Byte) :
    exec (.ibput b) s = .next (complete (setIbuf (bufAppend s.ibuf b) s)) := if_neg room

theorem exec_pbput_of_room {s : State} (room : s.pbuf.length ≠ s.cfg.pbufSize) (b : Byte) :
    exec (.pbput b) s = .next (complete (setPbuf (bufAppend s.pbuf b) s)) := if_neg room

theorem runAll_ibload {bytes : List Byte} {s : State} (fits : bytes.length ≤ s.cfg.ibufSize) :
    runAll (Pseudo.ibload bytes).expand s = .next (complete (setIbuf bytes s)) :=
  runAll_puts (capacity := s.cfg.ibufSize) (loaded := fun held => complete (setIbuf held s))
    (fun held b below => exec_ibput_of_room (s := complete (setIbuf held s)) below.ne b) [] bytes (by simpa using fits)

theorem runAll_pbload {bytes : List Byte} {s : State} (fits : bytes.length ≤ s.cfg.pbufSize) :
    runAll (Pseudo.pbload bytes).expand s = .next (complete (setPbuf bytes s)) :=
  runAll_puts (capacity := s.cfg.pbufSize) (loaded := fun held => complete (setPbuf held s))
    (fun held b below => exec_pbput_of_room (s := complete (setPbuf held s)) below.ne b) [] bytes (by simpa using fits)

/-- CHECKSUM leaves the range's checksum in RES and the register it was read from in CRC. -/
theorem runAll_checksum {off len : BitVec 16} {s : State} (covered : off.toNat + len.toNat ≤ s.ibuf.length) :
    runAll (Pseudo.checksum off len).expand s =
      .next (complete (setRes ((checksum (byteRange s.ibuf off.toNat len.toNat)).setWidth 64)
        (setCrc (crcBytes crcInit (byteRange s.ibuf off.toNat len.toNat)) s))) := by
  have init : exec .crcinit s = .next (complete (setCrc crcInit s)) := rfl
  have folded : exec (.crcib off len) (complete (setCrc crcInit s)) =
      .next (complete (setCrc (crcBytes crcInit (byteRange s.ibuf off.toNat len.toNat)) s)) :=
    if_pos ((ibufCovers_eq_true_iff ..).mpr covered)
  rw [Pseudo.expand, runAll_cons_of_next init, runAll_cons_of_next folded]
  rfl

/-- Settles O37: the expansions of IBLOAD, PBLOAD and CHECKSUM run, and FIELD's is UNPACK. -/
theorem pseudoCommandsRun : Obligations.PseudoCommandsRun :=
  ⟨fun _ _ fits => runAll_ibload fits, fun _ _ fits => runAll_pbload fits,
    fun _ _ _ covered => ⟨_, runAll_checksum covered, rfl, rfl⟩, fun _ => rfl⟩

end Sys2Proof.Machine
end

section
/-! PROOFS. A command's rule said of its words, from its row and its meaning, and the control and buffer-loading commands
(41_control.md R100-R107). -/

namespace Sys2Proof.Machine

open Rules

/-- The rule of a word of opcode op is the meaning of its row's command, for every opcode of whose words R69 checks the
reserved bits alone. -/
theorem wordRule_of_exec {op : Byte} {format : Format} {command : Word64 → Instr} {effect : Word64 → State → State}
    (row : ∀ w, opcodeRow op w = some (format, command w))
    (meaning : ∀ w s, exec (command w) s = .next (effect w s)) (notUnpack : op ≠ 0x21 := by decide)
    (notQuery : op ≠ 0x32 := by decide) : WordRule op (reservedMask format) effect := by
  intro s w rest hp (hop : opField w = op)
  have rowOfWord : opcodeRow (opField w) w = some (format, command w) := by rw [hop, row]
  refine ⟨fun reserved => ?_, fun clear => ?_⟩
  · exact (illegalCommandWords s w rest hp).1 ((illegalWord_iff_of_row rowOfWord).mpr (.inl reserved))
  · have hd : decode w = .instr (command w) :=
      decode_of_row w format (command w) rowOfWord clear (fun h => absurd (hop.symm.trans h) notUnpack)
        (fun h => absurd (hop.symm.trans h) notQuery)
    rw [step_of_cons s w rest hp, hd]
    exact meaning w _

/-- A command that errs under p and completes otherwise, with the two states written out. -/
theorem ite_fail_finish_eq (p : Prop) [Decidable p] (e : ErrorKind) (s u : State) :
    (if p then fail e s else finish u) = .next (if p then afterError e.code s else complete u) :=
  (apply_ite Host.Outcome.next p (raise e s) (complete u)).symm

/-- Settles O7: the meanings of the five commands, IBPUT's and PBPUT's with the branch of a full buffer. -/
theorem controlWords : Obligations.ControlWords :=
  ⟨wordRule_of_exec (format := .n) (fun _ => rfl) fun _ _ => rfl,
    wordRule_of_exec (format := .n) (fun _ => rfl) fun _ _ => rfl,
    wordRule_of_exec (format := .a) (fun _ => rfl) fun _ _ => rfl,
    wordRule_of_exec (format := .b) (fun _ => rfl) fun _ _ => ite_fail_finish_eq ..,
    wordRule_of_exec (format := .b) (fun _ => rfl) fun _ _ => ite_fail_finish_eq ..⟩

/-- ERRCLR and SRST are the only commands that take a nonzero FAULT to 0 (R102). -/
theorem errclr_or_srst_of_fault_cleared {i : Instr} {s t : State} (h : exec i s = .next t) (before : s.fault ≠ 0x00)
    (after : t.fault = 0x00) : i = .errclr ∨ i = .srst := by
  by_contra hi
  obtain ⟨notErrclr, notSrst⟩ := not_or.mp hi
  obtain ⟨u, hu, rfl⟩ | ⟨e, rfl⟩ := exec_cases h
  · exact before ((hu.fault_eq notErrclr notSrst).symm.trans after)
  · exact before ((stickyFault_of_ne_zero before e.code).symm.trans after)

theorem exec_unpack_of_not_covered {f : FieldSpec} {s : State} (valid : f.valid = true)
    (past : s.ibuf.length < s.chunkBase.toNat + s.chunkLen.toNat) :
    exec (.unpack f) s = .next (afterError 0x12 s) := by
  have notCovered := (ibufCovers_eq_false_iff ..).mpr past
  rw [exec, execUnpack, if_neg (by simp [valid]), if_pos notCovered]
  rfl

theorem exec_frame_of_noFault (k : Byte) {s : State} (noFault : s.fault = 0x00) :
    exec (.frame k) s =
      finish (setCrc (checksum (frameBody s.addr k s.pbuf)) (setObuf (frameBytes s.addr k s.pbuf) s)) :=
  if_neg (not_not.mpr noFault)

/-- A frame without payload is header, length field 00 00 and checksum (R106). -/
theorem frameBytes_nil_take (addr : BitVec 24) (k : Byte) :
    (frameBytes addr k []).take 8 = [0x55, 0x55] ++ be24 addr ++ [k, 0x00, 0x00] := rfl

/-- Settles O8: the meanings of the three commands, and what their corner cases name. -/
theorem clearingWords : Obligations.ClearingWords := by
  refine ⟨wordRule_of_exec (format := .n) (fun _ => rfl) fun _ _ => rfl,
    wordRule_of_exec (format := .n) (fun _ => rfl) fun _ _ => rfl,
    wordRule_of_exec (format := .n) (fun _ => rfl) fun _ _ => rfl,
    fun _ _ _ => errclr_or_srst_of_fault_cleared, fun f s valid empty window => ?_, fun k s empty noFault => ?_⟩
  · exact exec_unpack_of_not_covered valid (by rwa [empty])
  · refine ⟨_, exec_frame_of_noFault k noFault, ?_, ?_⟩
    · rw [complete_obuf, setCrc_obuf, setObuf_obuf, empty, frameBytes_nil_take]
    · rw [complete_obuf, setCrc_obuf, setObuf_obuf, empty, frameBytes_length, List.length_nil]

end Sys2Proof.Machine
end

section
/-! PROOFS. The right-shift CRC of the block is the left-shift CRC of R120's parameters in a reversed register
(42_checksum.md R120, R121). -/

namespace Sys2Proof

theorem reverse_xor {w : Nat} (x y : BitVec w) : (x ^^^ y).reverse = x.reverse ^^^ y.reverse := by
  ext i hi
  simp only [BitVec.getElem_reverse, BitVec.getElem_xor, BitVec.getMsbD_xor]

theorem reverse_shiftLeft_one {w : Nat} (x : BitVec w) : (x <<< 1).reverse = x.reverse >>> 1 := by
  ext i hi
  simp only [BitVec.getElem_reverse, BitVec.getMsbD_shiftLeft, BitVec.getElem_ushiftRight, BitVec.getLsbD_reverse,
    Nat.add_comm]

/-- A byte at the high end of the left-shift register is its reverse at the low end of the right-shift register. -/
theorem reverse_high_byte (b : Byte) : (b.reverse.setWidth 16 <<< 8).reverse = b.setWidth 16 := by
  ext i hi
  simp [BitVec.getElem_reverse, BitVec.getMsbD_shiftLeft, BitVec.getMsbD_setWidth,
    BitVec.getMsbD_reverse]

theorem reverse_shiftLeft (c : BitVec 16) : (Reference.shiftLeft c).reverse = crcShift c.reverse := by
  have sameBit : c.reverse.getLsbD 0 = c.getLsbD 15 := BitVec.getLsbD_reverse
  have samePolynomial : (0x8005 : BitVec 16).reverse = 0xA001 := by decide
  rw [Reference.shiftLeft, crcShift, sameBit]
  split
  · rw [reverse_xor, reverse_shiftLeft_one, samePolynomial]
  · exact reverse_shiftLeft_one c

theorem reverse_repeat_shiftLeft (n : Nat) (c : BitVec 16) :
    (Nat.repeat Reference.shiftLeft n c).reverse = Nat.repeat crcShift n c.reverse := by
  induction n with
  | zero => rfl
  | succ n ih => rw [Nat.repeat, Nat.repeat, reverse_shiftLeft, ih]

theorem reverse_update (c : BitVec 16) (b : Byte) : (Reference.update c b).reverse = crcUpdate c.reverse b := by
  rw [Reference.update, crcUpdate, reverse_repeat_shiftLeft, reverse_xor, reverse_high_byte]

theorem reverse_foldl_update (c : BitVec 16) (bytes : List Byte) :
    (bytes.foldl Reference.update c).reverse = crcBytes c.reverse bytes :=
  (List.foldl_hom BitVec.reverse fun c b => (reverse_update c b).symm).symm

/-- Settles O36: the two registers are each other's reverse after every byte, and 0xFFFF is its own reverse. -/
theorem checksumIsReflectedCrc : Obligations.ChecksumIsReflectedCrc := by
  intro bytes
  have sameInit : (0xFFFF : BitVec 16).reverse = 0xFFFF := by decide
  rw [checksum_eq, Reference.checksum, reverse_foldl_update, sameInit]
  exact (crcFinal_eq _).symm

end Sys2Proof
end

section
/-! PROOFS. The words of the checksum commands (42_checksum.md R125-R128). -/

namespace Sys2Proof

/-- A range inside a byte sequence, byte by byte. -/
theorem byteRange_eq_map {bytes : List Byte} {off len : Nat} (covered : off + len ≤ bytes.length) :
    byteRange bytes off len = (List.range len).map fun i => bytes.getD (off + i) 0 := by
  apply List.ext_getElem
  · simp [byteRange_length bytes off len covered]
  · intro i _ hi
    have below : i < len := by simpa using hi
    have inside : off + i < bytes.length := by omega
    simp [byteRange, inside]

theorem crcBytes_byteRange {bytes : List Byte} {off len : Nat} (covered : off + len ≤ bytes.length) (c : BitVec 16) :
    crcBytes c (byteRange bytes off len) =
      (List.range len).foldl (fun c i => crcUpdate c (bytes.getD (off + i) 0)) c := by
  rw [byteRange_eq_map covered, crcBytes, List.foldl_map]

namespace Machine

theorem exec_crcrd (s : State) : exec .crcrd s = .next { s with status := 0x00, res := s.crc.setWidth 64 } := by
  rw [exec, execCrcrd, crcFinal_eq]
  rfl

theorem exec_crcib_of_not_covered {off len : BitVec 16} {s : State} (past : s.ibuf.length < off.toNat + len.toNat) :
    exec (.crcib off len) s = .next (afterError 0x12 s) :=
  if_neg (by simpa using past)

theorem exec_crcib_of_covered {off len : BitVec 16} {s : State} (covered : off.toNat + len.toNat ≤ s.ibuf.length) :
    exec (.crcib off len) s = finish (setCrc (crcBytes s.crc (byteRange s.ibuf off.toNat len.toNat)) s) :=
  if_pos ((ibufCovers_eq_true_iff ..).mpr covered)

/-- Settles O9: the meanings of the three commands; folding 0x80 twice from 0xFFFF gives two registers. -/
theorem checksumWords : Obligations.ChecksumWords := by
  refine ⟨wordRule_of_exec (format := .n) (fun _ => rfl) fun _ _ => rfl,
    wordRule_of_exec (format := .b) (fun _ => rfl) fun _ _ => rfl,
    wordRule_of_exec (format := .n) (fun _ => rfl) fun _ => exec_crcrd, ?_⟩
  exact ⟨0x80, State.reset, _, _, rfl, rfl, by decide +kernel⟩

/-- Settles O10: the operands' naturals are the word's fields, and R127's loop is the fold over the range. -/
theorem crcibWord : Obligations.CrcibWord := by
  refine wordRule_of_exec (format := .r) (fun _ => rfl) fun w s => ?_
  rw [← offField_toNat, ← lenField_toNat]
  dsimp only
  split
  case isTrue past => exact exec_crcib_of_not_covered past
  case isFalse covered =>
    have inside := Nat.le_of_not_lt covered
    rw [← crcBytes_byteRange inside]
    exact exec_crcib_of_covered inside

end Machine

end Sys2Proof
end

section
/-! PROOFS. The unsigned value of a bit string (20_memory.md R41), and a field as the source's slice of its unit's
string (43_bitfield.md R142, R151). -/

namespace Sys2Proof

theorem natOfBits_append (xs ys : List Bool) :
    natOfBits (xs ++ ys) = 2 ^ ys.length * natOfBits xs + natOfBits ys := by
  induction ys using List.reverseRecOn with
  | nil => simp [natOfBits]
  | append_singleton ys b ih =>
    rw [← List.append_assoc, natOfBits_append_singleton, natOfBits_append_singleton, ih, List.length_append,
      List.length_singleton, pow_succ]
    ring

theorem natOfBits_eq_take_add_drop (bits : List Bool) (k : Nat) :
    natOfBits bits = 2 ^ (bits.length - k) * natOfBits (bits.take k) + natOfBits (bits.drop k) := by
  rw [← List.length_drop, ← natOfBits_append, List.take_append_drop]

theorem natOfBits_drop_lt (bits : List Bool) (k : Nat) : natOfBits (bits.drop k) < 2 ^ (bits.length - k) := by
  rw [← List.length_drop]
  exact natOfBits_lt _

/-- The first characters of a string are its value's high bits. -/
theorem natOfBits_take (bits : List Bool) (k : Nat) :
    natOfBits (bits.take k) = natOfBits bits / 2 ^ (bits.length - k) := by
  rw [natOfBits_eq_take_add_drop bits k, Nat.mul_add_div (Nat.two_pow_pos _),
    Nat.div_eq_of_lt (natOfBits_drop_lt bits k), Nat.add_zero]

/-- The last characters of a string are its value's low bits. -/
theorem natOfBits_drop (bits : List Bool) (k : Nat) :
    natOfBits (bits.drop k) = natOfBits bits % 2 ^ (bits.length - k) := by
  rw [natOfBits_eq_take_add_drop bits k, Nat.mul_add_mod, Nat.mod_eq_of_lt (natOfBits_drop_lt bits k)]

theorem natOfBits_testBit (bits : List Bool) (i : Nat) :
    (natOfBits bits).testBit i = bits.reverse.getD i false := by
  induction bits using List.reverseRecOn generalizing i with
  | nil => simp [natOfBits]
  | append_singleton bits b ih =>
    rw [natOfBits_append_singleton, ← Nat.bit_val, List.reverse_append, List.reverse_singleton, List.singleton_append]
    cases i with
    | zero => exact Nat.testBit_bit_zero b _
    | succ i => rw [Nat.testBit_bit_succ, ih, List.getD_cons_succ]

@[simp] theorem byteString_length (b : Byte) : (Reference.byteString b).length = 8 := by simp [Reference.byteString]

@[simp] theorem natOfBits_byteString (b : Byte) : natOfBits (Reference.byteString b) = b.toNat := by
  have lsbFirst : (Reference.byteString b).reverse = (List.range 8).map b.getLsbD := rfl
  apply Nat.eq_of_testBit_eq
  intro i
  rw [natOfBits_testBit, lsbFirst, List.getD_eq_getElem?_getD, List.getElem?_map, BitVec.testBit_toNat]
  by_cases hi : i < 8
  · simp [hi]
  · simp [hi, BitVec.getLsbD_of_ge b i (Nat.le_of_not_lt hi)]

theorem width_eq (f : FieldSpec) : f.width = 8 ∨ f.width = 16 := by
  unfold FieldSpec.width
  split
  · exact .inr rfl
  · exact .inl rfl

theorem bitHigh_le_width {f : FieldSpec} (valid : f.valid = true) : f.bitHigh.toNat ≤ f.width := by
  obtain ⟨_, _, _, high⟩ := (valid_iff f).mp valid
  unfold FieldSpec.width
  split <;> omega

@[simp] theorem unitString_length (f : FieldSpec) (chunk : List Byte) :
    (Reference.unitString f chunk).length = f.width := by
  unfold Reference.unitString
  obtain w | w := width_eq f <;> simp [w]

theorem natOfBits_unitString (f : FieldSpec) (chunk : List Byte) :
    natOfBits (Reference.unitString f chunk) = f.unit chunk := by
  unfold Reference.unitString FieldSpec.unit
  split
  · rw [natOfBits_append, natOfBits_byteString, natOfBits_byteString, byteString_length, ofBe16_toNat]
    rfl
  · exact natOfBits_byteString _

/-- The slice up to end drops the bits below bitLow, and from start on keeps those up to bitHigh. -/
theorem decodeField_eq_value {f : FieldSpec} (valid : f.valid = true) (chunk : List Byte) :
    Reference.decodeField f chunk = f.value chunk := by
  obtain ⟨_, low, ordered, _⟩ := (valid_iff f).mp valid
  have fits := bitHigh_le_width valid
  have endLe : Reference.endPos f ≤ (Reference.unitString f chunk).length := by
    rw [unitString_length, Reference.endPos]
    omega
  have below : f.width - Reference.endPos f = f.bitLow.toNat - 1 := by
    unfold Reference.endPos
    omega
  have kept : Reference.endPos f - (Reference.startPos f - 1) = f.bits := by
    unfold Reference.endPos Reference.startPos FieldSpec.bits
    omega
  rw [Reference.decodeField, natOfBits_drop, natOfBits_take, List.length_take_of_le endLe, kept,
    unitString_length, below, natOfBits_unitString, FieldSpec.value]

namespace Machine

/-- Settles O38: UNPACK's value is the source's slice. -/
theorem unpackIsSourceDecode : Obligations.UnpackIsSourceDecode := by
  intro f s valid covered enough
  have chunk : (s.ibuf.drop s.chunkBase.toNat).take s.chunkLen.toNat = s.chunk := rfl
  rw [exec_unpack_of_checks valid covered enough, chunk, decodeField_eq_value valid]
  rfl

end Machine

end Sys2Proof
end

section
/-! PROOFS. PACK against its rule (43_bitfield.md R155, R158) and against the source's encode (R156, R157). -/

namespace Sys2Proof

@[simp] theorem shortestBinary_length (v : Nat) : (Reference.shortestBinary v).length = Nat.log2 v + 1 := by
  simp [Reference.shortestBinary]

/-- A value's shortest spelling is longer than n characters exactly when the value needs more than n bits (R157). -/
theorem lt_shortestBinary_length_iff {n : Nat} (hn : 1 ≤ n) (v : Nat) :
    n < (Reference.shortestBinary v).length ↔ 2 ^ n ≤ v := by
  rw [shortestBinary_length, Nat.lt_succ_iff]
  by_cases hv : v = 0
  · rw [hv, Nat.log2_zero]
    exact iff_of_false (Nat.not_le.mpr hn) (Nat.not_le.mpr (Nat.two_pow_pos n))
  · exact Nat.le_log2 hv

/-- The left-padded shortest spelling of a value that fits is the value's bits, most significant first. -/
theorem leftPad_shortestBinary {n : Nat} {v : BitVec 32} (fits : (Reference.shortestBinary v.toNat).length ≤ n) :
    Reference.leftPad n (Reference.shortestBinary v.toNat) = lowBits n v := by
  rw [shortestBinary_length] at fits
  apply List.ext_getElem
  · rw [Reference.leftPad, List.length_append, List.length_replicate, shortestBinary_length, lowBits_length]
    omega
  · intro k _ hk
    rw [lowBits_length] at hk
    simp only [Reference.leftPad, Reference.shortestBinary, lowBits, List.getElem_append, List.getElem_replicate,
      List.getElem_map, List.getElem_range, List.length_replicate, List.length_map, List.length_range]
    split
    case isTrue padding =>
      have above : v.toNat < 2 ^ (n - 1 - k) := Nat.lt_log2_self.trans_le (Nat.pow_le_pow_right (by decide) (by omega))
      exact (Nat.testBit_lt_two_pow above).symm
    case isFalse spelled =>
      have sameBit : Nat.log2 v.toNat - (k - (n - (Nat.log2 v.toNat + 1))) = n - 1 - k := by omega
      rw [sameBit]
      rfl

/-- encode's number of characters is the field's width. -/
theorem chars_eq_bits {f : FieldSpec} (valid : f.valid = true) :
    Reference.endPos f - Reference.startPos f + 1 = f.bits := by
  obtain ⟨_, _, ordered, _⟩ := (valid_iff f).mp valid
  have fits := bitHigh_le_width valid
  unfold Reference.endPos Reference.startPos FieldSpec.bits
  omega

theorem encodeField_eq {f : FieldSpec} (valid : f.valid = true) (v : BitVec 32) (acc : List Bool) :
    Reference.encodeField f v.toNat acc =
      if 2 ^ f.bits ≤ v.toNat then none else some (Machine.packedAcc f v acc) := by
  have spelling := lt_shortestBinary_length_iff (bits_le_sixteen f valid).1 v.toNat
  simp only [Reference.encodeField, chars_eq_bits valid, spelling]
  split
  · rfl
  case isFalse fits =>
    rw [leftPad_shortestBinary (Nat.le_of_not_lt fun long => fits (spelling.mp long))]
    rfl

/-- The rules' validity of a spec's three numbers is the model's of the spec. -/
theorem specValid_iff (f : FieldSpec) :
    Rules.SpecValid f.byteIndex.toNat f.bitLow.toNat f.bitHigh.toNat ↔ f.valid = true := (valid_iff f).symm

namespace Machine

theorem exec_pack_of_valid {f : FieldSpec} (valid : f.valid = true) (v : BitVec 32) (s : State) :
    exec (.pack f v) s = .next (
      if 2 ^ f.bits ≤ v.toNat then afterError 0x03 s
      else if s.cfg.accMaxBits < (packedAcc f v s.acc).length then afterError 0x11 s
      else complete (setAcc (packedAcc f v s.acc) s)) := by
  have checked : exec (.pack f v) s = if 2 ^ f.bits ≤ v.toNat then fail .fieldValueOverflow s
      else if s.cfg.accMaxBits < max s.acc.length f.position + f.bits then fail .bufferOverflow s
      else finish (setAcc (packedAcc f v s.acc) s) := if_neg (by simp [valid])
  rw [checked, ite_fail_finish_eq, packedAcc_length]
  split <;> rfl

theorem exec_pack_of_checks {f : FieldSpec} {v : BitVec 32} {s : State} (valid : f.valid = true)
    (fits : v.toNat < 2 ^ f.bits) (room : max s.acc.length f.position + f.bits ≤ s.cfg.accMaxBits) :
    exec (.pack f v) s = .next (complete (setAcc (packedAcc f v s.acc) s)) := by
  rw [exec_pack_of_valid valid, packedAcc_length, if_neg (Nat.not_le.mpr fits), if_neg (Nat.not_lt.mpr room)]

/-- Settles O39: the spelling is too long exactly for the values that PACK refuses, and else it is the field's bits. -/
theorem packIsSourceEncode : Obligations.PackIsSourceEncode := by
  refine ⟨fun n v hn => lt_shortestBinary_length_iff hn v, fun f v s valid => ?_⟩
  rw [exec_pack_of_valid valid, encodeField_eq valid]
  split <;> rfl

/-- PACK's two loops append what the source's padding and the field's bits are. -/
theorem packedAcc_eq_packBits (f : FieldSpec) (v : BitVec 32) (acc : List Bool) :
    packedAcc f v acc =
      Rules.packBits f.byteIndex.toNat f.bitLow.toNat f.bitHigh.toNat v.toNat acc := by
  have padding : f.position - acc.length = max acc.length f.position - acc.length := by omega
  rw [packedAcc, padding]
  rfl

theorem exec_pack_eq_rule (f : FieldSpec) (v : BitVec 32) (s : State) :
    exec (.pack f v) s =
      .next (Rules.pack f.byteIndex.toNat f.bitLow.toNat f.bitHigh.toNat v.toNat s) := by
  unfold Rules.pack
  simp only [specValid_iff, ← packedAcc_eq_packBits]
  split
  case isTrue invalid => exact if_pos (Bool.eq_false_of_not_eq_true invalid)
  case isFalse valid =>
    rw [exec_pack_of_valid (not_not.mp valid), packedAcc_length]
    rfl

/-- Settles O13: PACK reserves no bit, and its row's command follows the rule. -/
theorem packWord : Obligations.PackWord := by
  refine wordRule_of_exec (format := .f) (fun _ => rfl) fun w s => ?_
  rw [← specField_byteIndex_toNat, ← specField_bitLow_toNat, ← specField_bitHigh_toNat, ← valueField_toNat]
  exact exec_pack_eq_rule (specField w) (valueField w) s

end Machine

end Sys2Proof
end

section
/-! PROOFS. SETCHUNK and UNPACK against their rules (43_bitfield.md R145, R150-R152). -/

namespace Sys2Proof

theorem need_eq_unitBytes (f : FieldSpec) : f.need = Rules.unitBytes f.byteIndex.toNat f.bitHigh.toNat := by
  unfold FieldSpec.need FieldSpec.width Rules.unitBytes
  split <;> rfl

theorem byteIndex_le_need (f : FieldSpec) : f.byteIndex.toNat ≤ f.need := by
  unfold FieldSpec.need
  split <;> omega

/-- UNPACK's mask is V's. -/
theorem valueMask_clear_iff (w : Word64) : w &&& 0x00000000FFFFFFFF = 0 ↔ valueField w = 0 := by
  rw [and_mask_eq_zero_iff w _ 0 32 (by decide +kernel) (by decide), ← BitVec.toNat_inj, valueField_toNat]
  simp

namespace Machine

/-- The field of the chunk is the field of the IBUF bytes from CHUNK_BASE on. -/
theorem value_chunk_eq_unpackValue {f : FieldSpec} {s : State} (valid : f.valid = true)
    (enough : f.need ≤ s.chunkLen.toNat) :
    f.value s.chunk = Rules.unpackValue f.byteIndex.toNat f.bitLow.toNat f.bitHigh.toNat s := by
  obtain ⟨first, _⟩ := (valid_iff f).mp valid
  have inChunk {i : Nat} (hi : i < f.need) : byteAt s.chunk i = s.ibuf.getD (s.chunkBase.toNat + i) 0 :=
    byteAt_byteRange _ _ _ _ (hi.trans_le enough)
  have firstByte := inChunk (i := f.byteIndex.toNat - 1) (by have := byteIndex_le_need f; omega)
  unfold FieldSpec.value Rules.unpackValue
  dsimp only
  split
  case isTrue wide =>
    have secondByte := inChunk (i := f.byteIndex.toNat) (by rw [need_eq_unitBytes, Rules.unitBytes, if_pos wide]; omega)
    rw [unit_of_high_gt wide, firstByte, secondByte, FieldSpec.bits]
  case isFalse narrow =>
    rw [unit_of_high_le (Nat.le_of_not_lt narrow), firstByte, FieldSpec.bits]

theorem exec_unpack_of_invalid {f : FieldSpec} (invalid : ¬ f.valid = true) (s : State) :
    exec (.unpack f) s = .next (afterError 0x01 s) := if_pos (Bool.eq_false_of_not_eq_true invalid)

theorem exec_unpack_of_short {f : FieldSpec} {s : State} (valid : f.valid = true)
    (covered : s.chunkBase.toNat + s.chunkLen.toNat ≤ s.ibuf.length) (short : s.chunkLen.toNat < f.need) :
    exec (.unpack f) s = .next (afterError 0x02 s) := by
  have inIbuf := (ibufCovers_eq_true_iff ..).mpr covered
  rw [exec, execUnpack, if_neg (by simp [valid]), if_neg (by simp [inIbuf]), if_pos short]
  rfl

theorem exec_unpack_eq_rule (f : FieldSpec) (s : State) :
    exec (.unpack f) s = .next (Rules.unpack f.byteIndex.toNat f.bitLow.toNat f.bitHigh.toNat s) := by
  unfold Rules.unpack
  simp only [specValid_iff, ← need_eq_unitBytes]
  split_ifs with valid past short
  · exact exec_unpack_of_not_covered valid past
  · exact exec_unpack_of_short valid (Nat.le_of_not_lt past) short
  · have enough := Nat.le_of_not_lt short
    rw [exec_unpack_of_checks valid (Nat.le_of_not_lt past) enough, value_chunk_eq_unpackValue valid enough]
    rfl
  · exact exec_unpack_of_invalid valid s

/-- Settles O12: a word of UNPACK's opcode is illegal exactly when V is nonzero, and its row's command follows
the rule. -/
theorem unpackWord : Obligations.UnpackWord := by
  intro s w rest hp (hop : opField w = 0x21)
  have row : opcodeRow (opField w) w = some (.f, .unpack (specField w)) := by rw [hop]; rfl
  rw [ne_eq, valueMask_clear_iff]
  refine ⟨fun nonzero => ?_, fun zero => ?_⟩
  · exact (illegalCommandWords s w rest hp).1 ((illegalWord_iff_of_row row).mpr (.inr (.inl ⟨hop, nonzero⟩)))
  · have hd := decode_of_row w .f _ row (reservedF_clear w) (fun _ => zero)
      (fun h => absurd (hop.symm.trans h) (by decide))
    have rule := exec_unpack_eq_rule (specField w) (setPending rest s)
    rw [specField_byteIndex_toNat, specField_bitLow_toNat, specField_bitHigh_toNat] at rule
    rw [step_of_cons s w rest hp, hd]
    exact rule

theorem exec_setchunk_of_covered {off len : BitVec 16} {s : State} (covered : off.toNat + len.toNat ≤ s.ibuf.length) :
    exec (.setchunk off len) s = finish (setChunk off len s) := if_pos ((ibufCovers_eq_true_iff ..).mpr covered)

theorem exec_setchunk_of_not_covered {off len : BitVec 16} {s : State} (past : s.ibuf.length < off.toNat + len.toNat) :
    exec (.setchunk off len) s = .next (afterError 0x12 s) := if_neg (by simpa using past)

/-- Settles O11: the operands' naturals are the word's fields, and every valid spec needs a byte of the chunk. -/
theorem setchunkWord : Obligations.SetchunkWord := by
  refine ⟨wordRule_of_exec (format := .r) (fun _ => rfl) fun w s => ?_, fun f off s valid inside => ?_⟩
  · rw [← offField_toNat, ← lenField_toNat]
    split
    case isTrue past => exact exec_setchunk_of_not_covered past
    case isFalse covered => exact exec_setchunk_of_covered (Nat.le_of_not_lt covered)
  · have covered : off.toNat + (0 : BitVec 16).toNat ≤ s.ibuf.length := inside
    refine ⟨_, exec_setchunk_of_covered covered, exec_unpack_of_short valid covered ?_⟩
    exact ((valid_iff f).mp valid).1.trans (byteIndex_le_need f)

end Machine

end Sys2Proof
end

section
/-! PROOFS. The accumulator's bytes (43_bitfield.md R154, R160). -/

namespace Sys2Proof.Machine

theorem firstByte_getLsbD (bits : List Bool) {j : Nat} (hj : j < 8) :
    (firstByte bits).getLsbD (7 - j) = bits.getD j false := by
  have inByte : 7 - j < 8 := by omega
  have mirrored : 7 - (7 - j) = j := by omega
  rw [firstByte, BitVec.getLsbD_ofNat, natOfBits_testBit, decide_eq_true inByte, Bool.true_and, List.getD_reverse]
  · simp [hj, mirrored]
  · simpa using inByte

theorem byteAt_packedBytes {acc : List Bool} {k : Nat} (hk : k < (acc.length + 7) / 8) :
    byteAt (packedBytes acc) k = firstByte (acc.drop (8 * k)) := by
  simp [byteAt, packedBytes, hk]

/-- The payload's bytes are the accumulator's bits, and the payload ends with the byte of the last bit. -/
theorem packedBytes_isPayloadOf (acc : List Bool) : Rules.IsPayloadOf (packedBytes acc) acc := by
  refine ⟨packedBytes_length acc, fun k j hk hj => ?_⟩
  rw [packedBytes_length] at hk
  have byte : (packedBytes acc).getD k 0 = firstByte (acc.drop (8 * k)) := byteAt_packedBytes hk
  rw [byte, firstByte_getLsbD _ hj]
  simp

/-- Settles O14: the meanings of the two commands; ACC's capacity is 8 bits per byte of PBUF's. -/
theorem pkclrPkfinWords : Obligations.PkclrPkfinWords := by
  refine ⟨wordRule_of_exec (format := .n) (fun _ => rfl) fun _ _ => rfl,
    ⟨packedBytes, packedBytes_isPayloadOf, wordRule_of_exec (format := .n) (fun _ => rfl) fun _ _ => rfl⟩, ?_⟩
  rintro s t ⟨⟩ fits
  rw [Config.accMaxBits] at fits
  rw [complete_pbuf, setPbuf_pbuf, packedBytes_length]
  omega

end Sys2Proof.Machine
end

section
/-! PROOFS. The round trip of a field through ACC, PBUF and IBUF (43_bitfield.md R161). -/

namespace Sys2Proof

/-- Bit p of the unit's MSB-first string is a bit of the byte that holds it (43_bitfield.md R141). -/
theorem unit_testBit {f : FieldSpec} (first : 1 ≤ f.byteIndex.toNat) (chunk : List Byte) {p : Nat} (hp : p < f.width) :
    (f.unit chunk).testBit (f.width - 1 - p) =
      (byteAt chunk (f.byteIndex.toNat - 1 + p / 8)).getLsbD (7 - p % 8) := by
  obtain w | w := width_eq f
  · have byte : p / 8 = 0 := by omega
    have bit : f.width - 1 - p = 7 - p % 8 := by omega
    rw [bit, byte, FieldSpec.unit, w]
    rfl
  · rw [FieldSpec.unit, if_pos w, ofBe16, BitVec.testBit_toNat, BitVec.getLsbD_append]
    by_cases high : p < 8
    · have byte : p / 8 = 0 := by omega
      have above : ¬ f.width - 1 - p < 8 := by omega
      have bit : f.width - 1 - p - 8 = 7 - p % 8 := by omega
      rw [if_neg above, bit, byte, Nat.add_zero]
    · have byte : f.byteIndex.toNat - 1 + p / 8 = f.byteIndex.toNat := by omega
      have below : f.width - 1 - p < 8 := by omega
      have bit : f.width - 1 - p = 7 - p % 8 := by omega
      rw [if_pos below, bit, byte]

namespace Machine

/-- With zero bytes behind the payload, every bit reads as ACC's, and as 0 past ACC's end. -/
theorem byteAt_packedBytes_zeros (acc : List Bool) (zeros k : Nat) {j : Nat} (hj : j < 8) :
    (byteAt (packedBytes acc ++ List.replicate zeros 0x00) k).getLsbD (7 - j) = acc.getD (8 * k + j) false := by
  by_cases hk : k < (packedBytes acc).length
  · have inPayload : byteAt (packedBytes acc ++ List.replicate zeros 0x00) k = (packedBytes acc).getD k 0 :=
      List.getD_append _ _ _ _ hk
    rw [inPayload]
    exact (packedBytes_isPayloadOf acc).2 k j hk hj
  · have zero : byteAt (packedBytes acc ++ List.replicate zeros 0x00) k = 0 := by
      rw [byteAt, List.getD_append_right _ _ _ _ (Nat.le_of_not_lt hk), List.getD_eq_getElem?_getD]
      exact List.getElem?_getD_replicate_default_eq _ _ _
    rw [packedBytes_length] at hk
    rw [zero, List.getD_eq_default _ _ (by omega)]
    simp

/-- The field's unit over the payload is ACC from the unit's first bit on. -/
theorem unit_packedBytes_testBit {f : FieldSpec} (first : 1 ≤ f.byteIndex.toNat) (acc : List Bool) (zeros : Nat)
    {p : Nat} (hp : p < f.width) :
    (f.unit (packedBytes acc ++ List.replicate zeros 0x00)).testBit (f.width - 1 - p) =
      acc.getD ((f.byteIndex.toNat - 1) * 8 + p) false := by
  have index : 8 * (f.byteIndex.toNat - 1 + p / 8) + p % 8 = (f.byteIndex.toNat - 1) * 8 + p := by omega
  rw [unit_testBit first _ hp, byteAt_packedBytes_zeros _ _ _ (Nat.mod_lt _ (by decide)), index]

/-- The field reads back from the payload of its own packing into an empty ACC. -/
theorem value_packedBytes_packedAcc {f : FieldSpec} {v : BitVec 32} (valid : f.valid = true)
    (fits : v.toNat < 2 ^ f.bits) (zeros : Nat) :
    f.value (packedBytes (packedAcc f v []) ++ List.replicate zeros 0x00) = v.toNat := by
  obtain ⟨first, low, ordered, _⟩ := (valid_iff f).mp valid
  have highFits := bitHigh_le_width valid
  have bitsEq : f.bits = f.bitHigh.toNat - f.bitLow.toNat + 1 := rfl
  have positionEq : f.position = (f.byteIndex.toNat - 1) * 8 + (f.width - f.bitHigh.toNat) := rfl
  apply Nat.eq_of_testBit_eq
  intro i
  rw [FieldSpec.value, Nat.testBit_mod_two_pow, Nat.testBit_div_two_pow]
  by_cases hi : i < f.bits
  · have fromTop : i + (f.bitLow.toNat - 1) = f.width - 1 - (f.width - f.bitHigh.toNat + (f.bits - 1 - i)) := by omega
    have index : (f.byteIndex.toNat - 1) * 8 + (f.width - f.bitHigh.toNat + (f.bits - 1 - i)) =
        max ([] : List Bool).length f.position + (f.bits - 1 - i) := by
      rw [List.length_nil]
      omega
    have sameBit : f.bits - 1 - (f.bits - 1 - i) = i := by omega
    rw [decide_eq_true hi, Bool.true_and, fromTop, unit_packedBytes_testBit first _ _ (by omega), index,
      List.getD_eq_getElem?_getD, packedAcc_getElem?_field f v [] _ (by omega), sameBit]
    rfl
  · have above : v.toNat < 2 ^ i := fits.trans_le (Nat.pow_le_pow_right (by decide) (Nat.le_of_not_lt hi))
    rw [decide_eq_false hi, Bool.false_and, Nat.testBit_lt_two_pow above]

/-- The payload of one field ends with the byte of the field's last bit. -/
theorem packedBytes_packedAcc_nil_length {f : FieldSpec} (valid : f.valid = true) (v : BitVec 32) :
    (packedBytes (packedAcc f v [])).length =
      if 9 ≤ f.bitLow.toNat then f.byteIndex.toNat else f.need := by
  obtain ⟨first, low, ordered, high⟩ := (valid_iff f).mp valid
  rw [packedBytes_length, packedAcc_length, List.length_nil, need_eq_unitBytes]
  unfold FieldSpec.position FieldSpec.bits FieldSpec.width Rules.unitBytes
  split_ifs <;> omega

theorem runAll_pack_payload {f : FieldSpec} {v : BitVec 32} {s : State} (valid : f.valid = true)
    (fits : v.toNat < 2 ^ f.bits) (room : f.position + f.bits ≤ s.cfg.accMaxBits) :
    ∃ p, Rules.runAll [.pkclr, .pack f v, .pkfin] s = .next p ∧ p.pbuf = packedBytes (packedAcc f v []) := by
  have cleared : exec .pkclr s = .next (complete (setAcc [] s)) := rfl
  have packed := exec_pack_of_checks (s := complete (setAcc [] s)) valid fits (by simpa using room)
  rw [runAll_cons_of_next cleared, runAll_cons_of_next packed]
  exact ⟨_, rfl, rfl⟩

theorem runAll_setchunk_unpack {f : FieldSpec} {q : State} {len : BitVec 16} (valid : f.valid = true)
    (whole : len.toNat = q.ibuf.length) (enough : f.need ≤ len.toNat) :
    ∃ r, Rules.runAll [.setchunk 0 len, .unpack f] q = .next r ∧ r.status = 0x00 ∧
      r.res = BitVec.ofNat 64 (f.value q.ibuf) := by
  have covered : (0 : BitVec 16).toNat + len.toNat ≤ q.ibuf.length := by simp [whole]
  have chunk : (complete (setChunk 0 len q)).chunk = q.ibuf := by simp [State.chunk, byteRange, whole]
  have unpacked := exec_unpack_of_checks (s := complete (setChunk 0 len q)) valid covered enough
  rw [runAll_cons_of_next (exec_setchunk_of_covered covered), runAll_cons_of_next unpacked, chunk]
  exact ⟨_, rfl, rfl, rfl⟩

/-- Settles O40: PKFIN's payload carries the field's bits, and UNPACK over it reads them back. -/
theorem packUnpackRoundTrip : Obligations.PackUnpackRoundTrip := by
  intro f v s valid fits room
  obtain ⟨p, hrun, hp⟩ := runAll_pack_payload (s := s) valid fits room
  rw [← need_eq_unitBytes]
  refine ⟨p, hrun, hp ▸ packedBytes_packedAcc_nil_length valid v, fun q zeros len copied whole enough => ?_⟩
  obtain ⟨r, hunpack, hstatus, hres⟩ := runAll_setchunk_unpack valid whole enough
  refine ⟨r, hunpack, hstatus, ?_⟩
  rw [hres, copied, hp, value_packedBytes_packedAcc valid fits, BitVec.ofNat_toNat]

end Machine

end Sys2Proof
end

section
/-! PROOFS. Lists of PACKs (43_bitfield.md R155, R162). -/

namespace Sys2Proof.Machine

open Rules

/-- ACC after a list of fields is packed in order. -/
def packedAll (fields : List (FieldSpec × BitVec 32)) (acc : List Bool) : List Bool :=
  fields.foldl (fun acc x => packedAcc x.1 x.2 acc) acc

@[simp] theorem packedAll_nil (acc : List Bool) : packedAll [] acc = acc := rfl

@[simp] theorem packedAll_cons (x : FieldSpec × BitVec 32) (rest : List (FieldSpec × BitVec 32)) (acc : List Bool) :
    packedAll (x :: rest) acc = packedAll rest (packedAcc x.1 x.2 acc) := rfl

theorem packedAll_length (fields : List (FieldSpec × BitVec 32)) (acc : List Bool) :
    (packedAll fields acc).length = lengthAfter fields acc.length := by
  induction fields generalizing acc with
  | nil => rfl
  | cons x rest ih =>
    rw [packedAll_cons, ih, packedAcc_length]
    rfl

theorem prefix_packedAcc (f : FieldSpec) (v : BitVec 32) (acc : List Bool) : acc <+: packedAcc f v acc := by
  rw [packedAcc, List.append_assoc]
  exact List.prefix_append _ _

/-- Packing moves no bit that is already in ACC (43_bitfield.md R156). -/
theorem prefix_packedAll (fields : List (FieldSpec × BitVec 32)) (acc : List Bool) : acc <+: packedAll fields acc := by
  induction fields generalizing acc with
  | nil => exact List.prefix_rfl
  | cons x rest ih => exact (prefix_packedAcc x.1 x.2 acc).trans (ih _)

theorem packedAll_getElem?_old (fields : List (FieldSpec × BitVec 32)) {acc : List Bool} {j : Nat}
    (h : j < acc.length) : (packedAll fields acc)[j]? = acc[j]? := by
  obtain ⟨later, h'⟩ := prefix_packedAll fields acc
  rw [← h', List.getElem?_append_left h]

/-- Every field stands from its landing on: the packing of the fields behind it leaves its bits. -/
theorem packedAll_getElem?_field (fields : List (FieldSpec × BitVec 32)) (acc : List Bool) {i k : Nat}
    (hi : i < fields.length) (hk : k < fields[i].1.bits) :
    (packedAll fields acc)[(landings fields acc.length).getD i 0 + k]? =
      some (fields[i].2.getLsbD (fields[i].1.bits - 1 - k)) := by
  induction fields generalizing acc i with
  | nil => exact absurd hi (Nat.not_lt_zero i)
  | cons x rest ih =>
    cases i with
    | zero =>
      have landed : max acc.length x.1.position + k < (packedAcc x.1 x.2 acc).length := by
        rw [packedAcc_length]
        exact Nat.add_lt_add_left hk _
      exact (packedAll_getElem?_old rest landed).trans (packedAcc_getElem?_field x.1 x.2 acc k hk)
    | succ i =>
      have later := ih (packedAcc x.1 x.2 acc) (Nat.lt_of_succ_lt_succ hi) hk
      rw [packedAcc_length] at later
      exact later

theorem le_lengthAfter (fields : List (FieldSpec × BitVec 32)) (len : Nat) : len ≤ lengthAfter fields len := by
  induction fields generalizing len with
  | nil => exact Nat.le_refl len
  | cons x rest ih => exact (Nat.le_max_left _ _).trans ((Nat.le_add_right _ _).trans (ih _))

/-- PACKs of valid specs and fitting values complete while the last of them has room. -/
theorem exists_runAll_packs {fields : List (FieldSpec × BitVec 32)} {s : State}
    (fieldsFit : ∀ x ∈ fields, x.1.valid = true ∧ x.2.toNat < 2 ^ x.1.bits)
    (room : lengthAfter fields s.acc.length ≤ s.cfg.accMaxBits) :
    ∃ t, runAll (fields.map fun x => .pack x.1 x.2) s = .next t ∧ t.acc = packedAll fields s.acc := by
  induction fields generalizing s with
  | nil => exact ⟨s, rfl, rfl⟩
  | cons x rest ih =>
    obtain ⟨⟨valid, fits⟩, restFit⟩ := List.forall_mem_cons.mp fieldsFit
    have roomFirst : max s.acc.length x.1.position + x.1.bits ≤ s.cfg.accMaxBits := (le_lengthAfter rest _).trans room
    rw [List.map_cons, runAll_cons_of_next (exec_pack_of_checks valid fits roomFirst)]
    refine ih restFit ?_
    rw [complete_acc, setAcc_acc, packedAcc_length]
    exact room

/-- Every field lands at its own position exactly when none begins before the end of what is packed before it (R162). -/
theorem landings_eq_targets_iff (fields : List (FieldSpec × BitVec 32)) (len : Nat) :
    landings fields len = fields.map (fun x => target x.1.byteIndex.toNat x.1.bitHigh.toNat) ↔ InOrder fields len := by
  induction fields generalizing len with
  | nil => exact iff_of_true rfl trivial
  | cons x rest ih =>
    rw [landings, InOrder, List.map_cons, List.cons.injEq, max_eq_right_iff]
    refine and_congr_right fun inOrder => ?_
    rw [max_eq_right inOrder, ih]

/-- Settles O41: the fields stand at their landings in ACC, and these are the fields' positions in an ordered list
only. -/
theorem packOrder : Obligations.PackOrder := by
  refine fun fields s fieldsFit room => ⟨?_, landings_eq_targets_iff fields _⟩
  obtain ⟨t, hrun, hacc⟩ := exists_runAll_packs fieldsFit room
  refine ⟨t, hrun, ?_, fun j hj => ?_, fun i k hi hk => ?_⟩
  · rw [hacc, packedAll_length]
  · rw [hacc, List.getD_eq_getElem?_getD, packedAll_getElem?_old fields hj, List.getD_eq_getElem?_getD]
  · rw [hacc]
    exact packedAll_getElem?_field fields s.acc hi hk

end Sys2Proof.Machine
end

section
/-! PROOFS. The outbound frame, byte by byte (44_framer.md R182-R184). -/

namespace Sys2Proof

open Rules

theorem be16_ofNat (n : Nat) : be16 (BitVec.ofNat 16 n) = [BitVec.ofNat 8 (n / 256), BitVec.ofNat 8 n] := by
  have high : (BitVec.ofNat 16 n).extractLsb' 8 8 = BitVec.ofNat 8 (n / 256) := by
    apply BitVec.eq_of_toNat_eq
    rw [BitVec.extractLsb'_toNat, Nat.shiftRight_eq_div_pow, BitVec.toNat_ofNat, BitVec.toNat_ofNat]
    omega
  have low : (BitVec.ofNat 16 n).extractLsb' 0 8 = BitVec.ofNat 8 n := by
    apply BitVec.eq_of_toNat_eq
    rw [BitVec.extractLsb'_toNat, Nat.shiftRight_zero, BitVec.toNat_ofNat, BitVec.toNat_ofNat]
    omega
  rw [be16, high, low]

theorem frameBody_eq_bodyOf (addr : BitVec 24) (k : Byte) (payload : List Byte) :
    frameBody addr k payload = bodyOf addr k payload := by
  rw [frameBody, be16_ofNat]
  rfl

theorem frameBytes_eq_wireOf (addr : BitVec 24) (k : Byte) (payload : List Byte) :
    frameBytes addr k payload = wireOf addr k payload (checksum (bodyOf addr k payload)) := by
  rw [frameBytes, frameBody_eq_bodyOf]
  rfl

/-- Two big-endian bytes of a 16-bit value read back as the value (R40). -/
theorem be16_value (c : BitVec 16) : 256 * (c.extractLsb 15 8).toNat + (c.extractLsb 7 0).toNat = c.toNat := by
  have := c.isLt
  simp only [BitVec.extractLsb_toNat, Nat.shiftRight_eq_div_pow]
  omega

/-- The two bytes of the length field hold the length while it is below 2^16 (R182). -/
theorem lengthField_value {n : Nat} (hn : n < 2 ^ 16) :
    256 * (BitVec.ofNat 8 (n / 256)).toNat + (BitVec.ofNat 8 n).toNat = n := by
  rw [BitVec.toNat_ofNat, BitVec.toNat_ofNat]
  omega

section
variable (addr : BitVec 24) (k : Byte) (payload : List Byte) (c : BitVec 16)

theorem bodyOf_length : (bodyOf addr k payload).length = payload.length + 6 := by
  rw [← frameBody_eq_bodyOf, frameBody_length]

theorem wireOf_length : (wireOf addr k payload c).length = payload.length + 10 := by
  simp [wireOf, bodyOf_length]

/-- The checksum's range is the body (R183). -/
theorem wireOf_checksumRange : byteRange (wireOf addr k payload c) 2 (payload.length + 6) = bodyOf addr k payload :=
  List.take_left' (bodyOf_length addr k payload)

theorem wireOf_payload : byteRange (wireOf addr k payload c) 8 payload.length = payload :=
  List.take_left' rfl

theorem wireOf_drop_payload :
    (wireOf addr k payload c).drop (payload.length + 8) = [c.extractLsb 15 8, c.extractLsb 7 0] := by
  have header : (wireOf addr k payload c).drop 8 = payload ++ [c.extractLsb 15 8, c.extractLsb 7 0] := rfl
  rw [Nat.add_comm, ← List.drop_drop, header, List.drop_left]

end

namespace Machine

/-- FRAME while FAULT is 0, the frame written out (R184). -/
theorem exec_frame_wire (k : Byte) {s : State} (noFault : s.fault = 0x00) :
    exec (.frame k) s =
      finish (setCrc (checksum (bodyOf s.addr k s.pbuf))
        (setObuf (wireOf s.addr k s.pbuf (checksum (bodyOf s.addr k s.pbuf))) s)) := by
  rw [exec_frame_of_noFault k noFault, frameBytes_eq_wireOf, frameBody_eq_bodyOf]

theorem obuf_of_exec_frame {k : Byte} {s t : State} (noFault : s.fault = 0x00) (h : exec (.frame k) s = .next t) :
    t.obuf = wireOf s.addr k s.pbuf (checksum (bodyOf s.addr k s.pbuf)) := by
  rw [exec_frame_wire k noFault] at h
  cases h
  rfl

/-- Settles O15: a nonzero FAULT blocks FRAME, else OBUF is the frame written out, the payload and 10 bytes more. -/
theorem frameWord : Obligations.FrameWord := by
  refine ⟨wordRule_of_exec (format := .b) (fun _ => rfl) fun w s => ?_, fun k s t h payloadFits obufFits => ?_⟩
  · split
    case isTrue faulted => exact if_pos faulted
    case isFalse noFault => exact exec_frame_wire (imm8Field w) (not_not.mp noFault)
  · obtain ⟨u, hu, rfl⟩ | ⟨e, rfl⟩ := exec_cases h
    · cases hu with
      | frame => simpa [Config.obufSize] using payloadFits
    · exact obufFits

/-- Settles O43: the parts of the frame written out. -/
theorem frameLayout : Obligations.FrameLayout := by
  refine fun k s noFault short => ⟨_, exec_frame_wire k noFault, wireOf_length .., rfl, rfl, rfl,
    lengthField_value short, wireOf_payload .., ?_⟩
  rintro c rfl
  have range := wireOf_checksumRange s.addr k s.pbuf (checksum (bodyOf s.addr k s.pbuf))
  rw [byteRange] at range
  rw [complete_obuf, setCrc_obuf, setObuf_obuf, range]
  exact wireOf_drop_payload ..

end Machine

end Sys2Proof
end

section
/-! PROOFS. UNFRAME (44_framer.md R186-R189), and UNFRAME of a frame that FRAME built. -/

namespace Sys2Proof.Machine

theorem ofBe16_eq_ofNat (hi lo : Byte) : ofBe16 hi lo = BitVec.ofNat 16 (256 * hi.toNat + lo.toNat) := by
  rw [← ofBe16_toNat, BitVec.ofNat_toNat, BitVec.setWidth_eq]

theorem exec_unframe_of_header {s : State} (header : headerSize ≤ s.ibuf.length) :
    exec .unframe s =
      finish (setRx (ofBe16 (byteAt s.ibuf 2) (byteAt s.ibuf 3)) (byteAt s.ibuf 4) (byteAt s.ibuf 5)
        (ofBe16 (byteAt s.ibuf 6) (byteAt s.ibuf 7)) (BitVec.ofNat 16 (s.ibuf.length - headerSize)) s) :=
  if_neg (Nat.not_lt.mpr header)

/-- Settles O16: the length is the one check, and the two-byte fields are read big-endian. -/
theorem unframeWord : Obligations.UnframeWord := by
  refine wordRule_of_exec (format := .n) (fun _ => rfl) fun w s => ?_
  dsimp only
  rw [← ofBe16_eq_ofNat, ← ofBe16_eq_ofNat]
  split
  case isTrue short => exact if_pos short
  case isFalse header => exact exec_unframe_of_header (Nat.le_of_not_lt header)

/-- The first two bytes of ADDR are its high 16 bits (90_conflicts.md C5). -/
theorem ofBe16_addr_high (addr : BitVec 24) :
    ofBe16 (addr.extractLsb 23 16) (addr.extractLsb 15 8) = addr.extractLsb 23 8 := by
  apply BitVec.eq_of_toNat_eq
  simp only [ofBe16_toNat, BitVec.extractLsb_toNat, Nat.shiftRight_eq_div_pow]
  omega

/-- Settles O45: UNFRAME's offsets are those of the frame written out. -/
theorem unframeOfFrame : Obligations.UnframeOfFrame := by
  intro k s t q short noFault h copied
  have wire := copied.trans (obuf_of_exec_frame noFault h)
  have length : q.ibuf.length = s.pbuf.length + 10 := by rw [wire, wireOf_length]
  refine ⟨_, exec_unframe_of_header (by rw [length, headerSize]; omega), rfl, ?_, ?_, ?_, ?_, ?_⟩
  · rw [complete_rxAddr, setRx_rxAddr, wire]
    exact ofBe16_addr_high s.addr
  · rw [complete_rxId, setRx_rxId, wire]
    rfl
  · rw [complete_rxType, setRx_rxType, wire]
    rfl
  · rw [complete_rxLen, setRx_rxLen, ofBe16_toNat, wire]
    exact lengthField_value (by omega)
  · rw [complete_rxBodyLen, setRx_rxBodyLen, length, headerSize, BitVec.toNat_ofNat]
    omega

end Sys2Proof.Machine
end

section
/-! PROOFS. QUERY (44_framer.md R192, R193), and the ROM entries as frames (R194). -/

namespace Sys2Proof.Machine

open Rules

/-- An entry that the ROM does not have answers as its illegal word does (log entry 7). -/
theorem exec_query_of_gt {k : Byte} (absent : 2 < k.toNat) (s : State) :
    exec (.query k) s = .next (afterError 0x10 s) :=
  execQuery_of_none ((queryRom_eq_none_iff _ k).mpr absent)

/-- The rule of QUERY's words is the meaning of its command, which refuses the entries that R69 refuses. -/
theorem wordRule_query {effect : Word64 → State → State}
    (meaning : ∀ w s, exec (.query (imm8Field w)) s = .next (effect w s)) :
    WordRule 0x32 (reservedMask .b) effect := by
  intro s w rest hp (hop : opField w = 0x32)
  have row : opcodeRow (opField w) w = some (.b, .query (imm8Field w)) := by rw [hop]; rfl
  have illegal := fun failed => (illegalCommandWords s w rest hp).1 ((illegalWord_iff_of_row row).mpr failed)
  refine ⟨fun reserved => illegal (.inl reserved), fun clear => ?_⟩
  rw [← meaning]
  by_cases entry : (imm8Field w).toNat ≤ 2
  · have hd := decode_of_row w .b _ row clear (fun h => absurd (hop.symm.trans h) (by decide)) fun _ => entry
    rw [step_of_cons s w rest hp, hd]
    rfl
  · have absent := Nat.lt_of_not_le entry
    rw [exec_query_of_gt absent]
    exact illegal (.inr (.inr ⟨hop, absent⟩))

/-- Settles O17: the ROM has the three entries of R193's table and no other. -/
theorem queryWord : Obligations.QueryWord := by
  refine wordRule_query fun w s => ?_
  rw [← imm8Field_toNat]
  generalize imm8Field w = k
  split
  case h_1 zero =>
    obtain rfl : k = 0 := BitVec.eq_of_toNat_eq zero
    exact execQuery_of_some (queryRom_zero _)
  case h_2 one =>
    obtain rfl : k = 1 := BitVec.eq_of_toNat_eq one
    exact execQuery_of_some (queryRom_one _)
  case h_3 two =>
    obtain rfl : k = 2 := BitVec.eq_of_toNat_eq two
    rw [exec, execQuery_of_some (queryRom_two _)]
    cases s.cfg.acQueryLiteral <;> rfl
  case h_4 notZero notOne notTwo =>
    have absent : k.toNat ≠ 0 ∧ k.toNat ≠ 1 ∧ k.toNat ≠ 2 := ⟨notZero, notOne, notTwo⟩
    exact exec_query_of_gt (by omega) s

/-- FRAME and QUERY leave the same OBUF where the ROM entry is the frame of ADDR, the type byte and PBUF. -/
theorem exec_frame_query_same_obuf {k entry : Byte} {s : State} (noFault : s.fault = 0x00)
    (rom : queryRom s.cfg.acQueryLiteral entry = some (frameBytes s.addr k s.pbuf)) :
    ∃ t u, exec (.frame k) s = .next t ∧ exec (.query entry) s = .next u ∧ t.obuf = u.obuf :=
  ⟨_, _, exec_frame_of_noFault k noFault, execQuery_of_some rom, rfl⟩

theorem frameBytes_groupStatus :
    frameBytes 0x80B001 0x2b [] = [0x55, 0x55, 0x80, 0xb0, 0x01, 0x2b, 0x00, 0x00, 0xf5, 0x2f] := by decide +kernel

theorem frameBytes_groupName :
    frameBytes 0x90B001 0x1f [0xff, 0x12] =
      [0x55, 0x55, 0x90, 0xb0, 0x01, 0x1f, 0x00, 0x02, 0xff, 0x12, 0x82, 0x0c] := by decide +kernel

theorem frameBytes_acStatus :
    frameBytes 0x80B001 0x2d [] = [0x55, 0x55, 0x80, 0xb0, 0x01, 0x2d, 0x00, 0x00, 0xf4, 0xcf] := by decide +kernel

/-- Settles O44: the three default entries are the frames that R194 lists. -/
theorem romIsFramed : Obligations.RomIsFramed := by
  refine fun s noFault => ⟨fun addr payload => ?_, fun addr payload => ?_, fun addr payload short => ?_⟩
  · exact exec_frame_query_same_obuf noFault (by rw [addr, payload, frameBytes_groupStatus, queryRom_zero])
  · exact exec_frame_query_same_obuf noFault (by rw [addr, payload, frameBytes_groupName, queryRom_one])
  · refine exec_frame_query_same_obuf noFault ?_
    rw [addr, payload, frameBytes_acStatus, queryRom_two, short]
    rfl

end Sys2Proof.Machine
end

section
/-! PROOFS. The host's verification of an inbound frame (44_framer.md R191). -/

namespace Sys2Proof.Machine

open Rules

/-- R191's UNPACK 1, 1, 16. -/
def checksumSpec : FieldSpec := { byteIndex := 1, bitLow := 1, bitHigh := 16 }

/-- The last two bytes of a frame as R191 reads them. -/
def receivedChecksum (raw : List Byte) : BitVec 16 :=
  ofBe16 (byteAt raw (raw.length - 2)) (byteAt raw (raw.length - 1))

/-- UNPACK 1, 1, 16 reads the two bytes at CHUNK_BASE. -/
theorem exec_unpack_checksumSpec {s : State} (covered : s.chunkBase.toNat + s.chunkLen.toNat ≤ s.ibuf.length)
    (two : s.chunkLen = 2) :
    exec (.unpack checksumSpec) s =
      finish (setRes ((ofBe16 (byteAt s.ibuf s.chunkBase.toNat) (byteAt s.ibuf (s.chunkBase.toNat + 1))).setWidth 64)
        s) := by
  have valid : checksumSpec.valid = true := by decide
  have enough : checksumSpec.need ≤ s.chunkLen.toNat := by rw [two]; decide
  have whole : unpackValue 1 1 16 s = (256 * (byteAt s.ibuf s.chunkBase.toNat).toNat +
      (byteAt s.ibuf (s.chunkBase.toNat + 1)).toNat) / 2 ^ 0 % 2 ^ 16 := rfl
  rw [← ofBe16_toNat, Nat.pow_zero, Nat.div_one, Nat.mod_eq_of_lt (BitVec.isLt _)] at whole
  rw [exec_unpack_of_checks valid covered enough, value_chunk_eq_unpackValue valid enough, ← BitVec.ofNat_toNat,
    ← whole]
  rfl

/-- SETCHUNK T-2, 2 and UNPACK 1, 1, 16 leave the last two bytes in RES. -/
theorem runAll_receive {s : State} (ten : 10 ≤ s.ibuf.length) (short : s.ibuf.length < 2 ^ 16) :
    runAll [.setchunk (BitVec.ofNat 16 (s.ibuf.length - 2)) 2, .unpack checksumSpec] s =
      .next (complete (setRes ((receivedChecksum s.ibuf).setWidth 64)
        (setChunk (BitVec.ofNat 16 (s.ibuf.length - 2)) 2 s))) := by
  have two : (2 : BitVec 16).toNat = 2 := rfl
  have base : (BitVec.ofNat 16 (s.ibuf.length - 2)).toNat = s.ibuf.length - 2 := Nat.mod_eq_of_lt (by omega)
  have second : s.ibuf.length - 2 + 1 = s.ibuf.length - 1 := by omega
  have covered : (BitVec.ofNat 16 (s.ibuf.length - 2)).toNat + (2 : BitVec 16).toNat ≤ s.ibuf.length := by omega
  have unpacked := exec_unpack_checksumSpec
    (s := complete (setChunk (BitVec.ofNat 16 (s.ibuf.length - 2)) 2 s)) covered rfl
  rw [complete_chunkBase, setChunk_chunkBase, base, second] at unpacked
  rw [runAll_cons_of_next (exec_setchunk_of_covered covered), runAll_cons_of_next unpacked]
  rfl

/-- What R191's commands leave: the checksum of raw[2 : T-2] in CRC and the last two bytes in RES. -/
def verified (s : State) : State :=
  complete (setRes ((receivedChecksum s.ibuf).setWidth 64)
    (setChunk (BitVec.ofNat 16 (s.ibuf.length - 2)) 2
      (setCrc (checksum (byteRange s.ibuf 2 (s.ibuf.length - 4))) s)))

theorem runAll_verification {s : State} (ten : 10 ≤ s.ibuf.length) (short : s.ibuf.length < 2 ^ 16) :
    runAll [.crcinit, .crcib 2 (BitVec.ofNat 16 (s.ibuf.length - 4)),
        .setchunk (BitVec.ofNat 16 (s.ibuf.length - 2)) 2, .unpack checksumSpec] s =
      .next (verified s) := by
  have init : exec .crcinit s = .next (complete (setCrc crcInit s)) := rfl
  have two : (2 : BitVec 16).toNat = 2 := rfl
  have len : (BitVec.ofNat 16 (s.ibuf.length - 4)).toNat = s.ibuf.length - 4 := Nat.mod_eq_of_lt (by omega)
  have covered : (2 : BitVec 16).toNat + (BitVec.ofNat 16 (s.ibuf.length - 4)).toNat ≤ s.ibuf.length := by omega
  have folded := exec_crcib_of_covered (s := complete (setCrc crcInit s)) covered
  rw [two, len] at folded
  rw [runAll_cons_of_next init, runAll_cons_of_next folded, verified, checksum, crcFinal_eq]
  exact runAll_receive (s := complete (setCrc _ (complete (setCrc crcInit s)))) ten short

/-- The last two bytes of a frame written out are its checksum (R182). -/
theorem receivedChecksum_wireOf (addr : BitVec 24) (k : Byte) (payload : List Byte) (c : BitVec 16) :
    receivedChecksum (wireOf addr k payload c) = c := by
  have last (i : Nat) : byteAt (wireOf addr k payload c) (payload.length + 8 + i) =
      byteAt [c.extractLsb 15 8, c.extractLsb 7 0] i := by
    rw [← wireOf_drop_payload addr k payload c]
    simp [byteAt]
  apply BitVec.eq_of_toNat_eq
  rw [receivedChecksum, wireOf_length, ofBe16_toNat]
  exact (congrArg₂ (fun hi lo : Byte => 256 * hi.toNat + lo.toNat) (last 0) (last 1)).trans (be16_value c)

/-- Settles O46: the commands run for any bytes; on a frame written out both checksums are its body's. -/
theorem hostVerification : Obligations.HostVerification := by
  rintro s T rfl ten short
  refine ⟨verified s, runAll_verification ten short, rfl, rfl, ?_, fun k a b noFault h copied => ?_⟩
  · rw [verified, complete_res, setRes_res, BitVec.toNat_setWidth_of_le (by decide)]
    exact ofBe16_toNat _ _
  · have wire := copied.trans (obuf_of_exec_frame noFault h)
    have agree : checksum (byteRange s.ibuf 2 (s.ibuf.length - 4)) = receivedChecksum s.ibuf := by
      rw [wire, receivedChecksum_wireOf, wireOf_length]
      exact congrArg checksum (wireOf_checksumRange ..)
    have same : (verified s).crc.setWidth 64 = (verified s).res := congrArg (BitVec.setWidth 64) agree
    refine ⟨same, fun noneWaits => ?_⟩
    rw [readReg, readReg, settled_of_nil (verified s) noneWaits]
    exact congrArg some same

end Sys2Proof.Machine
end

section
/-! PROOFS. Errors are precise (60_exceptions.md R210). -/

namespace Sys2Proof.Machine

/-- A step that leaves a nonzero STATUS has raised an error in the state from which its word has been taken: a command
that completes sets STATUS to 0 (10_state.md R12). -/
theorem step_raises_of_status_ne_zero {s t : State} {w : Word64} {rest : List Word64} (hp : s.pending = w :: rest)
    (h : step s = .next t) (hs : t.status ≠ 0x00) : ∃ e, t = raise e (setPending rest s) := by
  obtain ⟨u, completed, -, -⟩ | ⟨e, raised⟩ := step_completes_or_raises s w rest hp
  · obtain rfl : t = complete u := Host.Outcome.next.inj (h.symm.trans completed)
    exact absurd (complete_status u) hs
  · exact ⟨e, Host.Outcome.next.inj (h.symm.trans raised)⟩

/-- Settles O24: the step has raised an error, and raising writes STATUS and FAULT alone. -/
theorem errorsArePrecise : Obligations.ErrorsArePrecise := by
  intro s t w rest hp h hs
  obtain ⟨e, rfl⟩ := step_raises_of_status_ne_zero hp h hs
  rfl

end Sys2Proof.Machine
end

section
/-! PROOFS. The sticky FAULT along a run (70_reset_and_hazards.md R251). -/

namespace Sys2Proof.Machine

theorem decode_encode_frame (k : Byte) : decode (encode (.frame k)) = .instr (.frame k) := by
  have op : opField (encode (.frame k)) = 0x30 := opField_encodeB 0x30 k
  obtain ⟨format, row, reserved⟩ := Laws.EncodedRow.frame k
  exact decode_of_row _ format _ row reserved (fun h => absurd (op.symm.trans h) (by decide))
    (fun h => absurd (op.symm.trans h) (by decide))

/-- A run that has reached u goes on from u. -/
theorem run_add_of_next (M : Host.Core) {j : Nat} (k : Nat) {s u : M.State} (h : M.run j s = .next u) :
    M.run (j + k) s = M.run k u := by
  induction j generalizing s with
  | zero => obtain rfl := Host.Outcome.next.inj h; rw [Nat.zero_add]
  | succ j ih =>
    cases hs : M.step s with
    | next t =>
      rw [run_succ_of_next M j s t hs] at h
      rw [Nat.add_right_comm, run_succ_of_next M (j + k) s t hs, ih h]
    | fault r => rw [Host.Core.run, hs] at h; cases h
    | refused r => rw [Host.Core.run, hs] at h; cases h

/-- With FAULT nonzero the words ws, none of them ERRCLR or SRST, run to their end and leave FAULT as it is. -/
theorem run_keeps_fault {s : State} {ws rest : List Word64} (hp : s.pending = ws ++ rest) (hf : s.fault ≠ 0x00)
    (noClear : ∀ w ∈ ws, decode w ≠ .instr .errclr ∧ decode w ≠ .instr .srst) :
    ∃ u, Host.Core.run core ws.length s = .next u ∧ u.pending = rest ∧ u.fault = s.fault := by
  induction ws generalizing s with
  | nil => exact ⟨s, rfl, hp, rfl⟩
  | cons w ws ih =>
    obtain ⟨⟨notErrclr, notSrst⟩, later⟩ := List.forall_mem_cons.mp noClear
    obtain ⟨t, hstep, ht, -⟩ := exists_step_of_cons s w (ws ++ rest) hp
    have kept : t.fault = s.fault := step_keeps_fault hp hstep hf notErrclr notSrst
    obtain ⟨u, hrun, hu, same⟩ := ih ht (kept ▸ hf) later
    exact ⟨u, (run_succ_of_next core _ s t hstep).trans hrun, hu, same.trans kept⟩

/-- R181: while FAULT is nonzero a FRAME's word is taken and refused. -/
theorem step_frame_of_fault {k : Byte} {s : State} {rest : List Word64} (hp : s.pending = encode (.frame k) :: rest)
    (hf : s.fault ≠ 0x00) : step s = .next { s with pending := rest, status := 0x13 } := by
  rw [step_of_cons s _ rest hp, decode_encode_frame]
  exact exec_frame_of_fault k hf

/-- Settles O26: the words before the FRAME leave FAULT nonzero, and the FRAME is refused there. -/
theorem faultBlocksEveryLaterFrame : Obligations.FaultBlocksEveryLaterFrame := by
  intro s ws rest k hf noClear hp
  obtain ⟨u, hrun, hu, same⟩ := run_keeps_fault hp hf noClear
  have refused := step_frame_of_fault hu (same ▸ hf)
  exact ⟨u, _, hrun, (run_add_of_next core 1 hrun).trans (run_succ_of_next core 0 u _ refused), same, rfl⟩

end Sys2Proof.Machine
end

section
/-! PROOFS. The state after power-on and SRST (70_reset_and_hazards.md R240). -/

namespace Sys2Proof.Machine

/-- After power-on the four length registers are 0, so every element read is refused (10_state.md R27). -/
theorem bufferReads_resetWith (c : Config) (i : Nat) :
    readIbuf i (State.resetWith c) = none ∧ readPbuf i (State.resetWith c) = none ∧
      readObuf i (State.resetWith c) = none ∧ readAcc i (State.resetWith c) = none := by
  rw [readIbuf, readPbuf, readObuf, readAcc, settled_of_nil _ (resetWith_pending c)]
  exact ⟨rfl, rfl, rfl, rfl⟩

/-- Settles O34: the registers by the definition of the power-on state, the buffer reads by what they see of it. -/
theorem powerOnState : Obligations.PowerOnState := by
  refine ⟨fun c => ?_, rfl, fun _ => rfl⟩
  exact ⟨rfl, rfl, rfl, rfl, rfl, rfl, rfl, rfl, rfl, rfl, rfl, rfl, rfl, rfl, rfl, rfl, bufferReads_resetWith c⟩

end Sys2Proof.Machine
end

section
/-! PROOFS. Encoding and decoding are each other's inverse between the well-formed commands and the legal words
(30_encoding.md sections 2 to 6). -/

namespace Sys2Proof

open Laws.EncodedRow in
/-- Every command's word has the command's row and leaves the row's reserved bits 0. -/
theorem encodedRow (i : Instr) : Statement i := by
  cases i with
  | nop => exact nop
  | srst => exact srst
  | errclr => exact errclr
  | setaddr a => exact setaddr a
  | ibclr => exact ibclr
  | ibput b => exact ibput b
  | pbclr => exact pbclr
  | pbput b => exact pbput b
  | crcinit => exact crcinit
  | crcbyte b => exact crcbyte b
  | crcib off len => exact crcib off len
  | crcrd => exact crcrd
  | setchunk off len => exact setchunk off len
  | unpack f => exact unpack f
  | pkclr => exact pkclr
  | pack f v => exact pack f v
  | pkfin => exact pkfin
  | frame k => exact frame k
  | unframe => exact unframe
  | query k => exact query k

/-- A command's opcode names the command, with the operands of its word. -/
theorem eq_of_opField_encode {op : Byte} {i : Instr} {format : Format} {command : Instr}
    (hop : opField (encode i) = op) (row : opcodeRow op (encode i) = some (format, command)) : i = command := by
  obtain ⟨_, own, _⟩ := encodedRow i
  rw [hop, row] at own
  exact (congrArg Prod.snd (Option.some.inj own)).symm

/-- Settles O2: a command's word passes R69's check of the reserved bits, and the checks of UNPACK's V and of QUERY's entry
see the operands of the command itself. -/
theorem decodeOfEncode : Obligations.DecodeOfEncode := by
  intro i wf
  obtain ⟨format, row, reserved⟩ := encodedRow i
  refine decode_of_row _ format i row reserved (fun hop => ?_) (fun hop => ?_)
  · have unpack := eq_of_opField_encode hop rfl
    rw [unpack]
    exact valueField_encodeF ..
  · have query := eq_of_opField_encode hop rfl
    rw [query] at wf
    exact of_decide_eq_true wf

/-- Settles O3: a word that decodes to a command is not illegal, so it is the word of the well-formed command it
decodes to. -/
theorem encodeOfDecode : Obligations.EncodeOfDecode := by
  intro w i hd
  by_cases h : Rules.IllegalWord w
  · obtain ⟨why, illegal⟩ := decode_of_illegalWord h
    cases hd.symm.trans illegal
  · obtain ⟨j, wf, word, hj⟩ := decode_of_not_illegalWord h
    obtain rfl : i = j := Decoded.instr.inj (hd.symm.trans hj)
    exact ⟨wf, word⟩

/-- Settles O1: seven words are those of commands, and decoding refuses the other two. -/
theorem exampleWordsDecode : Obligations.ExampleWordsDecode :=
  ⟨decodeOfEncode .unframe rfl, decodeOfEncode (.frame 0x2c) rfl, decodeOfEncode (.setaddr 0x90b001) rfl,
    decodeOfEncode (.setchunk 8 6) rfl, decodeOfEncode (.pack ⟨1, 5, 8⟩ 4) rfl, decodeOfEncode (.unpack ⟨1, 1, 6⟩) rfl,
    decodeOfEncode (.crcib 2 18) rfl, by decide, by decide⟩

end Sys2Proof
end

section
/-! PROOFS. The step of the oldest issued word (30_encoding.md section 5, 20_memory.md R50). -/

namespace Sys2Proof.Machine

theorem step_of_decode {s : State} {w : Word64} {rest : List Word64} {i : Instr} (hp : s.pending = w :: rest)
    (hd : decode w = .instr i) : step s = exec i (setPending rest s) := by
  rw [step_of_cons s w rest hp, hd]

@[simp] theorem tableWord_toNat (w : Word64) : tableWord 64 w.toNat = w := by
  rw [tableWord, Nat.mod_eq_of_lt w.isLt, BitVec.ofNat_toNat, BitVec.setWidth_eq]

theorem withFetchWord_pending (s : State) (w : Word64) : (s.withFetchWord 64 w.toNat).pending = w :: s.pending := by
  rw [State.withFetchWord, setPending_pending, tableWord_toNat]

/-- Settles O5: a step with a word issued completes or raises an error, and neither touches the later words or the
parameters. -/
theorem everyWordCompletes : Obligations.EveryWordCompletes := ⟨exists_step_of_cons, step_of_nil⟩

/-- Settles O6: the step of a decoded word, and the word put in front decodes back to its command. -/
theorem stepRunsDecodedCommand : Obligations.StepRunsDecodedCommand :=
  ⟨fun _ _ _ _ => step_of_decode, fun s i wf => step_of_decode (withFetchWord_pending s _) (decodeOfEncode i wf)⟩

end Sys2Proof.Machine
end

section
/-! PROOFS. Where each command completes, and the whole state it leaves (41_control.md to 44_framer.md). -/

namespace Sys2Proof.Machine

open Rules

/-- Settles O18: the meanings of the nine commands check nothing; CRCRD's final XOR is with 0. -/
theorem unconditionalCommandsComplete : Obligations.UnconditionalCommandsComplete :=
  fun s => ⟨rfl, rfl, rfl, fun _ => rfl, rfl, rfl, rfl, exec_crcrd s, rfl⟩

theorem exec_ibput_of_full {s : State} (full : s.ibuf.length = s.cfg.ibufSize) (b : Byte) :
    exec (.ibput b) s = .next (afterError 0x11 s) := if_pos full

theorem exec_pbput_of_full {s : State} (full : s.pbuf.length = s.cfg.pbufSize) (b : Byte) :
    exec (.pbput b) s = .next (afterError 0x11 s) := if_pos full

/-- Settles O19: both branches of IBPUT and of PBPUT. -/
theorem bufferPutsComplete : Obligations.BufferPutsComplete :=
  fun b _ => ⟨fun room => exec_ibput_of_room room b, fun full => exec_ibput_of_full full b,
    fun room => exec_pbput_of_room room b, fun full => exec_pbput_of_full full b⟩

theorem exec_crcbyte (b : Byte) (s : State) : exec (.crcbyte b) s = .next (complete (setCrc (crcUpdate s.crc b) s)) := rfl

/-- CRCBYTE of each byte in order folds the byte sequence into CRC. -/
theorem runAll_crcbytes (bytes : List Byte) (s : State) :
    runAll (bytes.map .crcbyte) (complete s) = .next (complete (setCrc (crcBytes s.crc bytes) s)) := by
  induction bytes generalizing s with
  | nil => rfl
  | cons b bytes ih =>
    have first : exec (.crcbyte b) (complete s) = .next (complete (setCrc (crcUpdate s.crc b) s)) := exec_crcbyte ..
    rw [List.map_cons, runAll_cons_of_next first, ih, crcBytes_cons]
    rfl

/-- Settles O20: CRCIB's fold over a range is the run of CRCBYTE over the range's bytes. -/
theorem checksumFoldsComplete : Obligations.ChecksumFoldsComplete :=
  ⟨exec_crcbyte, fun _ _ s covered => ⟨_, exec_crcib_of_covered covered, runAll_crcbytes _ s⟩,
    fun _ _ _ => exec_crcib_of_not_covered⟩

/-- Settles O21: SETCHUNK's two branches, and UNPACK's rule where each of its three checks passes. -/
theorem setchunkUnpackComplete : Obligations.SetchunkUnpackComplete := by
  refine ⟨fun _ _ _ => exec_setchunk_of_covered, fun f s valid covered enough => ?_,
    fun _ _ _ => exec_setchunk_of_not_covered, exec_unpack_eq_rule⟩
  rw [exec_unpack_eq_rule, Rules.unpack, if_neg (not_not.mpr valid), if_neg (Nat.not_lt.mpr covered),
    if_neg (Nat.not_lt.mpr enough)]

/-- Settles O22: PACK's rule where each of its three checks passes; PKFIN checks nothing. -/
theorem packPkfinComplete : Obligations.PackPkfinComplete := by
  refine ⟨fun f v s valid fits room => ?_, fun s => ⟨packedBytes s.acc, packedBytes_isPayloadOf s.acc, rfl⟩⟩
  rw [exec_pack_eq_rule, Rules.pack, if_neg (not_not.mpr valid), if_neg (Nat.not_le.mpr fits),
    if_neg (Nat.not_lt.mpr room)]

theorem exists_queryRom_of_le {k : Byte} (entry : k.toNat ≤ 2) (literal : Bool) :
    ∃ bytes, queryRom literal k = some bytes := by
  rw [← Option.ne_none_iff_exists', ne_eq, queryRom_eq_none_iff]
  exact Nat.not_lt.mpr entry

/-- Settles O23: FRAME's frame written out, UNFRAME's offsets, and the ROM's entry. -/
theorem framerCommandsComplete : Obligations.FramerCommandsComplete := by
  refine ⟨fun k _ => exec_frame_wire k, fun _ => exec_unframe_of_header, fun k s present => ?_⟩
  obtain ⟨bytes, entry⟩ := exists_queryRom_of_le present s.cfg.acQueryLiteral
  exact ⟨bytes, entry, execQuery_of_some entry⟩

end Sys2Proof.Machine
end

section
/-! PROOFS. The codes each command raises (60_exceptions.md R211, R214). -/

namespace Sys2Proof.Machine

open Rules

/-- r is a next state whose STATUS is 0 or one of these codes. -/
def EndsWithin (codes : List Byte) (r : Result) : Prop := ∃ t, r = .next t ∧ (t.status = 0x00 ∨ t.status ∈ codes)

theorem EndsWithin.ite {p : Prop} [Decidable p] {codes : List Byte} {q r : Result} (hq : EndsWithin codes q)
    (hr : EndsWithin codes r) : EndsWithin codes (if p then q else r) := by
  split
  · exact hq
  · exact hr

theorem finish_endsWithin (codes : List Byte) (s : State) : EndsWithin codes (finish s) := ⟨_, rfl, .inl rfl⟩

theorem fail_endsWithin {codes : List Byte} {e : ErrorKind} (listed : e.code ∈ codes) (s : State) :
    EndsWithin codes (fail e s) := ⟨_, rfl, .inr listed⟩

theorem exec_endsWithin_mayRaise (i : Instr) (s : State) : EndsWithin (mayRaise i) (exec i s) := by
  have done (u : State) := finish_endsWithin (mayRaise i) u
  have error (e : ErrorKind) (listed : e.code ∈ mayRaise i) := fail_endsWithin listed s
  cases i with
  | ibput b => exact .ite (error _ (.head _)) (done _)
  | pbput b => exact .ite (error _ (.head _)) (done _)
  | crcib off len => exact .ite (done _) (error _ (.head _))
  | setchunk off len => exact .ite (done _) (error _ (.head _))
  | unpack f =>
    exact .ite (error _ (.head _)) (.ite (error _ (.tail _ (.head _)))
      (.ite (error _ (.tail _ (.tail _ (.head _)))) (done _)))
  | pack f v =>
    exact .ite (error _ (.head _)) (.ite (error _ (.tail _ (.head _)))
      (.ite (error _ (.tail _ (.tail _ (.head _)))) (done _)))
  | frame k => exact .ite (error _ (.head _)) (done _)
  | unframe => exact .ite (error _ (.head _)) (done _)
  | query k =>
    simp only [exec, execQuery]
    split
    · exact done _
    · exact error _ (.head _)
  | _ => exact done _

theorem exec_status {i : Instr} {s t : State} (h : exec i s = .next t) : t.status = 0x00 ∨ t.status ∈ mayRaise i := by
  obtain ⟨u, hu, status⟩ := exec_endsWithin_mayRaise i s
  obtain rfl : t = u := Host.Outcome.next.inj (h.symm.trans hu)
  exact status

theorem mayRaise_subset_raisedCodes (i : Instr) : mayRaise i ⊆ raisedCodes := by
  cases i <;> simp [mayRaise, raisedCodes]

/-- Which command a step runs, or the error it raises for a word that is none. -/
theorem step_eq_exec_or_illegal {s t : State} (h : step s = .next t) :
    ∃ rest, (∃ i, exec i (setPending rest s) = .next t) ∨ t = raise .illegalCommand (setPending rest s) := by
  cases hp : s.pending with
  | nil => rw [step_of_nil s hp] at h; cases h
  | cons w rest =>
    rw [step_of_cons s w rest hp] at h
    cases hd : decode w with
    | instr i => rw [hd] at h; exact ⟨rest, .inl ⟨i, h⟩⟩
    | illegal why => rw [hd] at h; exact ⟨rest, .inr (Host.Outcome.next.inj h).symm⟩

theorem step_status {s t : State} (h : step s = .next t) : t.status = 0x00 ∨ t.status ∈ raisedCodes := by
  obtain ⟨rest, ⟨i, hi⟩ | rfl⟩ := step_eq_exec_or_illegal h
  · exact (exec_status hi).imp_right fun listed => mayRaise_subset_raisedCodes i listed
  · have listed : ErrorKind.illegalCommand.code ∈ raisedCodes := by decide
    exact .inr listed

/-- Settles O28: the errors in each meaning's branches; UnknownMode's code is not among those the block raises. -/
theorem statusRaisedCodes : Obligations.RaisedCodes := by
  refine ⟨fun _ _ _ => exec_status, fun s t h => ⟨fun unknownMode => ?_, step_status h⟩⟩
  have legal := step_status h
  rw [unknownMode] at legal
  exact absurd legal (by decide)

end Sys2Proof.Machine
end

section
/-! PROOFS. The block's invariant (10_state.md sections 2, 3 and 6; 60_exceptions.md section 1). -/

namespace Sys2Proof.Machine

open Rules

/-- Only FRAME raises FaultPending, and only while FAULT is nonzero (44_framer.md R181). -/
theorem fault_ne_zero_of_faultPending {i : Instr} {s t : State} (h : exec i s = .next t) (pending : t.status = 0x13) :
    s.fault ≠ 0x00 := by
  intro noFault
  have raised := exec_status h
  rw [pending] at raised
  have listed : 0x13 ∈ mayRaise i := raised.resolve_left (by decide)
  cases i with
  | frame k =>
    rw [exec_frame_of_noFault k noFault] at h
    cases h
    cases pending
  | _ => simp [mayRaise] at listed

theorem resetWith_inv {c : Config} (legal : c.Legal) : (State.resetWith c).Inv :=
  ⟨legal, resetWith_memory_wf c, Nat.zero_le _, (Nat.zero_add 8).trans_le legal.1.1, Nat.two_pow_pos 16, .inl rfl,
    .inl rfl, fun h => absurd rfl h⟩

/-- SETCHUNK's window is in IBUF, which fits its capacity. -/
theorem CompletesIn.windowFits {s u : State} {i : Instr} (h : CompletesIn s i u) (wf : Memory.wf s)
    (hs : s.WindowFits) : u.WindowFits := by
  cases h with
  | srst => exact Nat.zero_le _
  | setchunk off len covered => exact covered.trans wf.1
  | _ => exact hs

/-- UNFRAME's body is IBUF less the header. -/
theorem CompletesIn.bodyFits {s u : State} {i : Instr} (h : CompletesIn s i u) (legal : s.cfg.Legal) (wf : Memory.wf s)
    (hs : s.BodyFits) : u.BodyFits := by
  cases h with
  | srst => exact (Nat.zero_add 8).trans_le legal.1.1
  | unframe header =>
    have body : (BitVec.ofNat 16 (s.ibuf.length - headerSize)).toNat ≤ s.ibuf.length - headerSize := Nat.mod_le ..
    exact (Nat.add_le_of_le_sub header body).trans wf.1
  | _ => exact hs

/-- RES is written with CRC or with a field of at most 16 bits. -/
theorem CompletesIn.resultFits {s u : State} {i : Instr} (h : CompletesIn s i u) (hs : s.ResultFits) :
    u.ResultFits := by
  cases h with
  | srst => exact Nat.two_pow_pos 16
  | crcrd =>
    rw [State.ResultFits, setRes_res, BitVec.toNat_setWidth]
    exact (Nat.mod_le ..).trans_lt (crcFinal s.crc).isLt
  | unpack f valid => exact (Nat.mod_le ..).trans_lt (value_lt_sixteen_bits f s.chunk valid)
  | _ => exact hs

theorem CompletesIn.faultLegal {s u : State} {i : Instr} (h : CompletesIn s i u) (hs : s.FaultLegal) :
    u.FaultLegal := by
  cases h with
  | srst => exact .inl rfl
  | errclr => exact .inl rfl
  | _ => exact hs

theorem CompletesIn.inv_complete {s u : State} {i : Instr} (h : CompletesIn s i u) (hs : s.Inv) : (complete u).Inv := by
  obtain ⟨legal, wf, window, body, result, -, fault, -⟩ := hs
  exact ⟨h.cfg_eq ▸ legal, h.memory_wf wf, h.windowFits wf window, h.bodyFits legal wf body, h.resultFits result,
    .inl rfl, h.faultLegal fault, fun hne => absurd rfl hne⟩

/-- An error writes a code to STATUS, and to FAULT where none is held. -/
theorem raise_inv {e : ErrorKind} {s : State} (raised : e.code ∈ raisedCodes) (pending : e.code = 0x13 → s.fault ≠ 0x00)
    (hs : s.Inv) : (raise e s).Inv := by
  obtain ⟨legal, wf, window, body, result, -, fault, -⟩ := hs
  refine ⟨legal, wf, window, body, result, .inr raised, ?_⟩
  by_cases first : s.fault = 0x00
  · have written : (raise e s).fault = e.code := stickyFault_of_zero first _
    rw [State.FaultLegal, State.StatusImpliesFault, written]
    exact ⟨.inr ⟨raised, fun h => pending h first⟩, fun _ => code_ne_zero e⟩
  · have held : (raise e s).fault = s.fault := stickyFault_of_ne_zero first _
    rw [State.FaultLegal, State.StatusImpliesFault, held]
    exact ⟨fault, fun _ => first⟩

theorem exec_keeps_inv {i : Instr} {s t : State} (h : exec i s = .next t) (hs : s.Inv) : t.Inv := by
  obtain ⟨u, hu, rfl⟩ | ⟨e, rfl⟩ := exec_cases h
  · exact hu.inv_complete hs
  · have listed : e.code ∈ mayRaise i := (exec_status h).resolve_left (code_ne_zero e)
    exact raise_inv (mayRaise_subset_raisedCodes i listed) (fault_ne_zero_of_faultPending h) hs

/-- Settles O30: taking the word keeps the invariant, and so do every command and the error of an illegal word. -/
theorem stepKeepsInv : Obligations.StepKeepsInv := by
  intro s t hs h
  obtain ⟨rest, ⟨i, hi⟩ | rfl⟩ := step_eq_exec_or_illegal h
  · exact exec_keeps_inv hi hs
  · exact raise_inv (by decide) (fun h => absurd h (by decide)) hs

/-- Settles O31: every buffer is empty, the window and the body length are 0, and the defaults are legal. -/
theorem resetHasInv : Obligations.ResetHasInv := ⟨fun _ => resetWith_inv, resetWith_inv (by decide)⟩

end Sys2Proof.Machine
end
